-- ==== Sys2Proof/Word.lean ====
section
/-! DEFINITION. The value types of the block: bytes (field elements, buffer bytes) and 32-bit words
(registers, command words). 00_scope.md R9: every value is unsigned. -/

namespace Sys2Proof

/-- 8 bits, unsigned: a field element, an exponent, a buffer byte (R9, R11). -/
abbrev Byte := BitVec 8

/-- 32 bits, unsigned: a register or a command word (R31, R80). -/
abbrev Word := BitVec 32

/-- `zext_32` of R9: an 8-bit value in bits 7:0, zeros above. -/
def zext32 (b : Byte) : Word := b.setWidth 32

end Sys2Proof
end

