-- ==== Sys2Proof/Syntax.lean ====
section
/-! DEFINITION. The command set (one constructor per row of spec/opcode_table.json), the host-visible
registers, and the moves of the HOST. -/

namespace Sys2Proof

/-- A command with its operands, all immediates (30_encoding.md R82, R83). Each operand has exactly
the width its field has, so every value of this type is a legal word's meaning. -/
inductive Instr where
  /-- `NOP` (R180) -/
  | nop
  /-- `GF_ADD A, B` (R102) -/
  | gfAdd (a b : Byte)
  /-- `GF_MUL A, B` (R103) -/
  | gfMul (a b : Byte)
  /-- `GF_LOG A` (R104) -/
  | gfLog (a : Byte)
  /-- `GF_ALOG A` (R105) -/
  | gfAlog (a : Byte)
  /-- `PG_CLR S` (R126) -/
  | pgClr (s : BitVec 4)
  /-- `PG_BYTE D` (R127) -/
  | pgByte (d : Byte)
  /-- `PG_PAR` (R128) -/
  | pgPar
  /-- `PG_CHUNK K`, K an IBUF byte offset (R129) -/
  | pgChunk (k : BitVec 24)
  /-- `ASM_PAGE K`, K a page index (R160) -/
  | asmPage (k : BitVec 24)
  /-- `ASM_BLOCK` (R161) -/
  | asmBlock
  deriving DecidableEq, Repr

/-- The host-addressable spaces (20_memory.md R60). The ROMs LOG and ALOG have no host address. -/
inductive Space where
  | reg
  | ibuf
  | obuf
  deriving DecidableEq, Repr

/-- The ten registers of the REG space (10_state.md R31). -/
inductive Reg where
  | cfg
  | pageSize
  | blockSize
  | cmd
  | status
  | result
  | accv
  | pgstate
  | mode
  | outlen
  deriving DecidableEq, Repr

/-- A host access of R61: `HostRead(S, off, w)` or `HostWrite(S, off, w, v)`, the width in bits. -/
inductive Access where
  | read (space : Space) (off width : Nat)
  | write (space : Space) (off width : Nat) (value : Word)
  deriving DecidableEq, Repr

/-- What the HOST, or whoever drives the block's pins, does in one step. -/
inductive HostMove where
  /-- A host access by space and offset (R61). -/
  | access (a : Access)
  /-- A host read at a platform address (R70). -/
  | readAt (addr width : Nat)
  /-- A host write at a platform address (R70). -/
  | writeAt (addr width : Nat) (value : Word)
  /-- `WAIT` (R89): read STATUS, and stay at this move while the BUSY bit read is 1. -/
  | wait
  /-- Assert the reset input (R230). -/
  | assertReset
  /-- Release the reset input (R230). -/
  | releaseReset
  deriving DecidableEq, Repr

end Sys2Proof
end

