-- ==== Sys2Proof/Decode.lean ====
section
/-! DEFINITION. The command encoding (30_encoding.md): the opcode map, the decoder, total on every
32-bit word, and the encoder. -/

namespace Sys2Proof

/-- The commands of the opcode map, without operands. -/
inductive Op where
  | nop
  | gfAdd
  | gfMul
  | gfLog
  | gfAlog
  | pgClr
  | pgByte
  | pgPar
  | pgChunk
  | asmPage
  | asmBlock
  deriving DecidableEq, Repr

/-- A row of the opcode map (R83). -/
structure Row where
  op    : Op
  mask  : Word
  value : Word
  deriving DecidableEq, Repr

/-- The opcode map (R83), `value` being the table's `match`. -/
def rows : List Row :=
  [ ⟨.nop,      0xFFFFFFFF, 0x00000000⟩,
    ⟨.gfAdd,    0xFFFF0000, 0x01000000⟩,
    ⟨.gfMul,    0xFFFF0000, 0x02000000⟩,
    ⟨.gfLog,    0xFFFFFF00, 0x03000000⟩,
    ⟨.gfAlog,   0xFFFFFF00, 0x04000000⟩,
    ⟨.pgClr,    0xFFFFFFF0, 0x10000000⟩,
    ⟨.pgByte,   0xFFFFFF00, 0x11000000⟩,
    ⟨.pgPar,    0xFFFFFFFF, 0x12000000⟩,
    ⟨.pgChunk,  0xFF000000, 0x13000000⟩,
    ⟨.asmPage,  0xFF000000, 0x20000000⟩,
    ⟨.asmBlock, 0xFFFFFFFF, 0x21000000⟩ ]

/-- `(w and mask) = match` (R83). -/
def Row.selects (r : Row) (w : Word) : Bool := w &&& r.mask == r.value

/-- Operand assembly (R82): A = w[15:8] and B = w[7:0] in format R, A = w[7:0] in format U, S = w[3:0],
D = w[7:0], K = w[23:0]. -/
def operands (op : Op) (w : Word) : Instr :=
  match op with
  | .nop => .nop
  | .gfAdd => .gfAdd (w.extractLsb' 8 8) (w.extractLsb' 0 8)
  | .gfMul => .gfMul (w.extractLsb' 8 8) (w.extractLsb' 0 8)
  | .gfLog => .gfLog (w.extractLsb' 0 8)
  | .gfAlog => .gfAlog (w.extractLsb' 0 8)
  | .pgClr => .pgClr (w.extractLsb' 0 4)
  | .pgByte => .pgByte (w.extractLsb' 0 8)
  | .pgPar => .pgPar
  | .pgChunk => .pgChunk (w.extractLsb' 0 24)
  | .asmPage => .asmPage (w.extractLsb' 0 24)
  | .asmBlock => .asmBlock

/-- Why a word is illegal (R85). Both give ILLEGAL_CMD. -/
inductive Illegal where
  /-- Its opcode is not in the map. -/
  | undefinedOpcode
  /-- Its opcode is in the map and a "must be 0" bit of its format is 1. -/
  | reservedBits
  deriving DecidableEq, Repr

/-- The decode function (R84), naming why it rejects (R85). -/
def decode (w : Word) : Except Illegal Instr :=
  match rows.find? (fun r => r.selects w) with
  | some r => .ok (operands r.op w)
  | none =>
    if rows.any (fun r => r.value.extractLsb' 24 8 == w.extractLsb' 24 8) then .error .reservedBits
    else .error .undefinedOpcode

/-- Format N (R81). -/
def formatN (op : BitVec 8) : Word := op ++ 0#24

/-- Format R (R81). -/
def formatR (op a b : BitVec 8) : Word := op ++ 0#8 ++ a ++ b

/-- Formats U and D (R81). -/
def formatU (op a : BitVec 8) : Word := op ++ 0#16 ++ a

/-- Format S (R81). -/
def formatS (op : BitVec 8) (s : BitVec 4) : Word := op ++ 0#20 ++ s

/-- Format X (R81). -/
def formatX (op : BitVec 8) (k : BitVec 24) : Word := op ++ k

/-- The encoded word `{OP, fields}` (R81, R83, R88). -/
def encode : Instr → Word
  | .nop => formatN 0x00
  | .gfAdd a b => formatR 0x01 a b
  | .gfMul a b => formatR 0x02 a b
  | .gfLog a => formatU 0x03 a
  | .gfAlog a => formatU 0x04 a
  | .pgClr s => formatS 0x10 s
  | .pgByte d => formatU 0x11 d
  | .pgPar => formatN 0x12
  | .pgChunk k => formatX 0x13 k
  | .asmPage k => formatX 0x20 k
  | .asmBlock => formatN 0x21

/-- The 32-bit command word of an instruction given as `nbits` bits of `w`, bits above them 0. A
command is one register-wide word (R80, R87), so no byte order is involved. -/
def tableWord (nbits w : Nat) : Word := BitVec.ofNat 32 (w % 2 ^ nbits)

/-- What the decoder reads from the table word `w` of `nbits` bits. -/
def decodeTableWord (nbits w : Nat) : Option Instr :=
  match decode (tableWord nbits w) with
  | .ok i => some i
  | .error _ => none

end Sys2Proof
end

