-- ==== Sys2Proof/Config.lean ====
section
/-! DEFINITION. What an implementation fixes (00_scope.md R7, the ROMs of 10_state.md R20 and R21) and
the values the spec leaves free. The three opaque constants have no body: no proof sees a value of
them, so a claim that mentions them holds whatever they are. -/

namespace Sys2Proof

/-- The open implementation parameters of R7. A model takes each as an argument: State carries them
(log 1), and no step changes them. -/
structure Params where
  /-- GF_POLY: bit i is the coefficient of x^i, bit 8 is set. -/
  gfPoly : BitVec 9
  /-- GF_GEN: the base of the log and antilog tables. -/
  gfGen : Byte
  /-- LOG0: the content of LOG[0]. -/
  log0 : Byte
  /-- G4_0: the ECC-4 generator coefficient of x^0. -/
  g4_0 : Byte
  /-- G4_1: the coefficient of x^1. -/
  g4_1 : Byte
  /-- G4_2: the coefficient of x^2. -/
  g4_2 : Byte
  /-- G4_3: the coefficient of x^3. -/
  g4_3 : Byte
  /-- MAX_BLOCK_SIZE, in bytes. -/
  maxBlockSize : Nat
  /-- REG_BASE: where the platform places REG (R70). -/
  regBase : Nat
  /-- IBUF_BASE. -/
  ibufBase : Nat
  /-- OBUF_BASE. -/
  obufBase : Nat
  deriving DecidableEq, Repr, Inhabited

/-- The two read-only tables of the Galois Field Engine (R20, R21, R22). -/
structure Rom where
  alog : Vector Byte 256
  log  : Vector Byte 256
  deriving DecidableEq, Repr

/-- The parameters some implementation was built with, before R7's constraints are imposed
(`implementation` in Machine/Field.lean imposes them; log 2). -/
opaque Config.rawParams : Params

/-- "Any value" of 93_implementation_defined.md: the byte that draw number n gives (log 4, log 8). -/
opaque Config.freeByte : Nat → Byte

/-- How many HOST steps come between issue and completion, for the command issued at draw number n:
finite and otherwise unconstrained (R240, R241; log 9). -/
opaque Config.freeDelay : Nat → Nat

end Sys2Proof
end

