-- ==== Sys2Proof/Machine/Field.lean ====
section
/-! DEFINITION. Field multiplication modulo GF_POLY (the product `a·b` of 10_state.md R20 and R23, in
the polynomial basis of 00_scope.md R11), and the constraints R7 puts on the parameters. -/

namespace Sys2Proof.Machine

/-- Multiplication by x modulo `poly` = x^8 + lower terms (R11). -/
def xtime (poly : BitVec 9) (a : Byte) : Byte :=
  (a <<< 1) ^^^ (if a.msb then poly.setWidth 8 else 0)

/-- The product of `a` by the polynomial made of the top `n` bits of `b`, by Horner's rule. -/
def fieldMulTop (poly : BitVec 9) (a b : Byte) : Nat → Byte
  | 0 => 0
  | n + 1 => xtime poly (fieldMulTop poly a b n) ^^^ (if b.getLsbD (7 - n) then a else 0)

/-- `a·b`: the product in GF(2)[x]/GF_POLY (R11, R23). -/
def fieldMul (poly : BitVec 9) (a b : Byte) : Byte := fieldMulTop poly a b 8

/-- `g^n` under `fieldMul`, with `g^0 = 0x01` (R20). -/
def fieldPow (poly : BitVec 9) (g : Byte) : Nat → Byte
  | 0 => 1
  | n + 1 => fieldMul poly (fieldPow poly g n) g

/-- `g` has multiplicative order exactly 255 modulo `poly`: a primitive element of the field. -/
def hasOrder255 (poly : BitVec 9) (g : Byte) : Bool :=
  fieldPow poly g 255 == 1 && (List.range 254).all (fun k => fieldPow poly g (k + 1) != 1)

/-- R7: GF_POLY has degree 8 and is primitive (x has order 255 modulo it). -/
def primitivePoly (poly : BitVec 9) : Bool := poly.getLsbD 8 && hasOrder255 poly 0x02

/-- The constraints of R7 on the parameters. LOG0, the G4 coefficients and the base addresses have none. -/
def Params.wf (p : Params) : Bool :=
  primitivePoly p.gfPoly && hasOrder255 p.gfPoly p.gfGen
    && decide (128 ≤ p.maxBlockSize) && decide (p.maxBlockSize ≤ 2 ^ 24)

/-- The example parameters of 95_test_vectors.md section 2, for tests. The spec says nothing is known
to have these values; MAX_BLOCK_SIZE and the bases are chosen here. -/
def exampleParams : Params where
  gfPoly := 0x11D
  gfGen := 0x02
  log0 := 0x00
  g4_0 := 0x74
  g4_1 := 0xE7
  g4_2 := 0xD8
  g4_3 := 0x1E
  maxBlockSize := 512
  regBase := 0x0000
  ibufBase := 0x1000
  obufBase := 0x2000

/-- `p` where it meets R7, else the example parameters: every legal parameter set is a value of this
and no other is (DESIGN CHOICE, safe; log 2). -/
def Params.orExample (p : Params) : Params := if Params.wf p then p else exampleParams

/-- The parameters of the machine at hand: legal, and otherwise unknown (R7; log 1, log 2). -/
def implementation : Params := Params.orExample Config.rawParams

end Sys2Proof.Machine
end

