-- ==== Sys2Proof/Machine/Rom.lean ====
section
/-! DEFINITION. The contents of the ROMs ALOG and LOG (10_state.md R20, R21) and their reads. -/

namespace Sys2Proof.Machine

/-- ALOG[e] (R20): GF_GEN^e for e = 0..254, and ALOG[255] = ALOG[0] = 0x01. -/
def alogEntry (p : Params) (e : Nat) : Byte :=
  if e = 255 then 1 else fieldPow p.gfPoly p.gfGen e

/-- A 256-entry table from its entries. -/
def tableOf (f : Nat → Byte) : Vector Byte 256 :=
  ⟨((List.range 256).map f).toArray, by simp⟩

/-- LOG[a] (R21): LOG[0] = LOG0, else the e in 0..254 with ALOG[e] = a, which is the first place of a
in ALOG (ALOG[255] repeats ALOG[0]). For legal parameters every nonzero a has one (R20). -/
def logEntry (alog : Vector Byte 256) (log0 : Byte) (a : Nat) : Byte :=
  if a = 0 then log0 else BitVec.ofNat 8 (alog.toList.idxOf (BitVec.ofNat 8 a))

/-- The ROM contents that the parameters give (R20, R21, R231). -/
def romOf (p : Params) : Rom :=
  let alog := tableOf (alogEntry p)
  { alog := alog, log := tableOf (logEntry alog p.log0) }

/-- The ROM read `ALOG[e]` (R10). -/
def alogAt (r : Rom) (e : Byte) : Byte := r.alog[e.toNat]'e.isLt

/-- The ROM read `LOG[a]` (R10). -/
def logAt (r : Rom) (a : Byte) : Byte := r.log[a.toNat]'a.isLt

end Sys2Proof.Machine
end

