-- ==== Sys2Proof/Machine/State.lean ====
section
/-! DEFINITION. The state of the block (10_state.md R20 to R45, all of it: R44), the reset input, the
HOST's side of the bus, and the model's own counters. -/

namespace Sys2Proof.Machine

/-- Four 8-bit cells, `c0` the lowest-order one: the accumulator file ACC[0..3] (R26), and the
assembler's private accumulator (R29). -/
structure Cells where
  c0 : Byte
  c1 : Byte
  c2 : Byte
  c3 : Byte
  deriving DecidableEq, Repr

/-- A buffer: the bytes written since reset, by offset, offsets strictly rising. An offset that is not
listed has no value of its own: a read of it is a fresh free byte (R41, R42; log 4). -/
abbrev Memory := List Host.Cell

/-- The error codes of 60_exceptions.md R200 but 0 (NONE); 14 and 15 are never reported. -/
inductive ErrCode where
  | illegalCmd
  | cfgZeroBlock
  | cfgZeroPage
  | cfgPageNotMult32
  | cfgBadStrength
  | cfgBlockTooBig
  | cfgBlockNotMultPage
  | cfgNoMode
  | cfgFillConflict
  | cfgEccPageNotMult128
  | range
  | pgOverrun
  | pgIncomplete
  deriving DecidableEq, Repr

/-- The OOB modes of 42_layout_assembler.md R150. -/
inductive Mode where
  | zero
  | ones
  | ecc4
  | ecc3
  deriving DecidableEq, Repr

/-- What the configuration check returns: (P, B, mode) of R152. -/
structure Layout where
  page  : Nat
  block : Nat
  mode  : Mode
  deriving DecidableEq, Repr

/-- The block has no fault outcome: every error is a status value (93_implementation_defined.md, R200,
R203). Nothing raises a fault, so the type is closed with no constructor (safe; log 21). -/
inductive Fault where
  deriving DecidableEq, Repr

/-- Why a move of the HOST has no step (20_memory.md R63; 93_implementation_defined.md I10 to I12).
All are safe: the model stops where the spec gives the HOST no step. No command raises one. -/
inductive Refusal where
  /-- An instruction that has no meaning in this model. None is left: nothing raises it (safe). -/
  | notModelled (mnemonic : String)
  /-- A host access of a width R61 does not allow; raised by a host access (safe). -/
  | hostWidth
  /-- A 32-bit host access at an offset that is no multiple of 4 (R62); raised by a host access (safe). -/
  | hostMisaligned
  /-- A REG access at an unmapped offset (R31, R63); raised by a host access (safe). -/
  | hostUnmapped
  /-- A buffer access not wholly inside its space (R63); raised by a host access (safe). -/
  | hostOutOfRange
  /-- A write hazard of R233 while BUSY = 1; raised by a host write (safe). -/
  | hostWriteWhileBusy
  /-- A host access while reset is asserted (R230); raised by a host access or a WAIT (safe). -/
  | hostInReset
  /-- A platform address that lies in no window of the block, or in more than one (R70; log 12);
  raised by a host access by address (safe). -/
  | hostAddress
  deriving DecidableEq, Repr

/-- The machine's state. -/
structure State where
  /-- The open parameters (R7, R25): no step changes them. -/
  params : Params
  /-- The ROMs ALOG and LOG (R20 to R22): no step changes them. -/
  rom : Rom
  /-- ACC[0..3] (R26). -/
  acc : Cells
  /-- PGCNT (R27). -/
  pgcnt : BitVec 8
  /-- PGSTR (R28). -/
  pgstr : BitVec 4
  /-- The Layout Assembler's private chunk accumulator (R29). -/
  asmAcc : Cells
  /-- PENDING (R30). -/
  pending : Option Word
  /-- BUSY (R30). -/
  busy : Bool
  /-- CFG (R32). -/
  cfg : Word
  /-- PAGE_SIZE (R33). -/
  pageSize : Word
  /-- BLOCK_SIZE (R34). -/
  blockSize : Word
  /-- STATUS.ERR (R36). -/
  err : Bool
  /-- STATUS.ERRCODE (R36). -/
  errcode : BitVec 4
  /-- RESULT (R37). -/
  result : Word
  /-- IBUF (R41). -/
  ibuf : Memory
  /-- OBUF (R42). -/
  obuf : Memory
  /-- The reset input is asserted (R230). -/
  resetLine : Bool
  /-- HOST steps still to come before the ENGINE step of the pending command (R240; log 9). -/
  delay : Nat
  /-- The number of the next free value (the model's own; log 5). -/
  draws : Nat
  /-- The HOST's moves still to be made, in program order (R72; log 6). -/
  hostTodo : List HostMove
  /-- The values the block has returned to the HOST, latest first (log 6). -/
  hostGot : List Word
  deriving DecidableEq, Repr

/-- The zero accumulator: "Reset to all-zero at the start of each chunk" (R26, R122). -/
def Cells.zero : Cells := ⟨0, 0, 0, 0⟩

/-- The state after reset (R43, R230). The private accumulator's value, which R43 calls unobservable,
and the model's own fields are log 5, 6, 9, 11. -/
def State.reset : State where
  params := implementation
  rom := romOf implementation
  acc := Cells.zero
  pgcnt := 0
  pgstr := 4
  asmAcc := Cells.zero
  pending := none
  busy := false
  cfg := 0
  pageSize := 0
  blockSize := 0
  err := false
  errcode := 0
  result := 0
  ibuf := []
  obuf := []
  resetLine := false
  delay := 0
  draws := 0
  hostTodo := []
  hostGot := []

end Sys2Proof.Machine
end

