-- ==== Sys2Proof/Machine/Operands.lean ====
section
/-! DEFINITION. The operands of the commands and of the host accesses: the fields of CFG
(10_state.md R32), the strength operand (R126), the layout arithmetic (42_layout_assembler.md R153,
R154) and the bytes of a bus word (20_memory.md R65). -/

namespace Sys2Proof.Machine

/-- CFG.STRENGTH, bits 3:0 (R32). -/
def cfgStrength (cfg : Word) : BitVec 4 := cfg.extractLsb' 0 4

/-- CFG.ZERO_FILL, bit 4 (R32). -/
def cfgZeroFill (cfg : Word) : Bool := cfg.getLsbD 4

/-- CFG.ONES_FILL, bit 5 (R32). -/
def cfgOnesFill (cfg : Word) : Bool := cfg.getLsbD 5

/-- What a write of `v` to CFG stores: bits 31:6 are reserved, read as 0 and ignore writes (R32, R64). -/
def cfgStored (v : Word) : Word := v &&& 0x3F

/-- The strengths PG_CLR accepts (R126). -/
def legalStrength (s : BitVec 4) : Bool := s == 3 || s == 4

/-- K of PG_CHUNK: an IBUF byte offset, unsigned (R82). -/
def chunkOffset (k : BitVec 24) : Nat := k.toNat

/-- K of ASM_PAGE: a page index, unsigned (R82). -/
def pageIndex (k : BitVec 24) : Nat := k.toNat

/-- O = P div 32 (R153). -/
def Layout.oob (l : Layout) : Nat := l.page / 32

/-- n = B div P (R153). -/
def Layout.pages (l : Layout) : Nat := l.block / l.page

/-- C = P div 128 (R153). -/
def Layout.chunks (l : Layout) : Nat := l.page / 128

/-- The output block length OUT = n·(P + O) (R153). -/
def Layout.outLen (l : Layout) : Nat := l.pages * (l.page + l.oob)

/-- Where page `i`'s raw bytes begin in IBUF (R154). -/
def Layout.rawAt (l : Layout) (i : Nat) : Nat := i * l.page

/-- Where page `i`'s output begins in OBUF (R154). -/
def Layout.outAt (l : Layout) (i : Nat) : Nat := i * (l.page + l.oob)

/-- Where OOB_i begins in OBUF (R154). -/
def Layout.oobAt (l : Layout) (i : Nat) : Nat := l.outAt i + l.page

/-- The bytes a host write of `width` bits moves, lowest offset first: little-endian (R65). An 8-bit
write moves bits 7:0 (log 13). -/
def busBytes (width : Nat) (v : Word) : List Byte :=
  if width = 8 then [v.extractLsb' 0 8]
  else [v.extractLsb' 0 8, v.extractLsb' 8 8, v.extractLsb' 16 8, v.extractLsb' 24 8]

/-- The word a host read of `width` bits returns from the bytes at offsets off..off+3: little-endian,
an 8-bit read in bits 7:0 (R65; log 13). -/
def busWord (width : Nat) (b0 b1 b2 b3 : Byte) : Word :=
  if width = 8 then zext32 b0 else b3 ++ b2 ++ b1 ++ b0

end Sys2Proof.Machine
end

