-- ==== Sys2Proof/Machine/Address.lean ====
section
/-! DEFINITION. Which host accesses exist: spaces, widths, alignment, the register map and the platform
windows (20_memory.md R60 to R63, R70; 10_state.md R31). -/

namespace Sys2Proof.Machine

/-- OBUF_SIZE (00_scope.md R8). -/
def obufSize (p : Params) : Nat := p.maxBlockSize + p.maxBlockSize / 32

/-- The size of a space in bytes (R60). -/
def spaceSize (p : Params) : Space → Nat
  | .reg => 0x28
  | .ibuf => p.maxBlockSize
  | .obuf => obufSize p

/-- The widths allowed (R61): 32 for REG, 8 or 32 for the buffers. -/
def widthAllowed : Space → Nat → Bool
  | .reg, w => w == 32
  | .ibuf, w => w == 8 || w == 32
  | .obuf, w => w == 8 || w == 32

/-- A 32-bit access needs off mod 4 = 0; an 8-bit access may use any offset (R62). -/
def aligned (off width : Nat) : Bool := width != 32 || off % 4 == 0

/-- All bytes of the access lie inside the space: off + w/8 <= size (R63). -/
def inRange (p : Params) (sp : Space) (off width : Nat) : Bool :=
  decide (off + width / 8 ≤ spaceSize p sp)

/-- The register map (R31). -/
def regAt (off : Nat) : Option Reg :=
  if off = 0x00 then some .cfg
  else if off = 0x04 then some .pageSize
  else if off = 0x08 then some .blockSize
  else if off = 0x0C then some .cmd
  else if off = 0x10 then some .status
  else if off = 0x14 then some .result
  else if off = 0x18 then some .accv
  else if off = 0x1C then some .pgstate
  else if off = 0x20 then some .mode
  else if off = 0x24 then some .outlen
  else none

/-- Where the platform places a space (R70). -/
def spaceBase (p : Params) : Space → Nat
  | .reg => p.regBase
  | .ibuf => p.ibufBase
  | .obuf => p.obufBase

/-- The platform address `addr` lies in the window of `sp`. -/
def inWindow (p : Params) (addr : Nat) (sp : Space) : Bool :=
  decide (spaceBase p sp ≤ addr) && decide (addr < spaceBase p sp + spaceSize p sp)

/-- The space and offset of a platform address (R70): none where it lies in no window, or in several
(the spec has no overlap, R60; log 12). -/
def locate (p : Params) (addr : Nat) : Option (Space × Nat) :=
  match [Space.reg, Space.ibuf, Space.obuf].filter (inWindow p addr) with
  | [sp] => some (sp, addr - spaceBase p sp)
  | _ => none

end Sys2Proof.Machine
end

