-- ==== Sys2Proof/Machine/Flags.lean ====
section
/-! DEFINITION. The status flags and the words that registers show: STATUS, ACCV, PGSTATE
(10_state.md R36, R38, R39), and the numbers of the error and mode codes. -/

namespace Sys2Proof.Machine

/-- The 4-bit codes of 60_exceptions.md R200. -/
def ErrCode.code : ErrCode → BitVec 4
  | .illegalCmd => 1
  | .cfgZeroBlock => 2
  | .cfgZeroPage => 3
  | .cfgPageNotMult32 => 4
  | .cfgBadStrength => 5
  | .cfgBlockTooBig => 6
  | .cfgBlockNotMultPage => 7
  | .cfgNoMode => 8
  | .cfgFillConflict => 9
  | .cfgEccPageNotMult128 => 10
  | .range => 11
  | .pgOverrun => 12
  | .pgIncomplete => 13

/-- The 2-bit mode codes of 42_layout_assembler.md R150. -/
def Mode.code : Mode → BitVec 2
  | .zero => 0
  | .ones => 1
  | .ecc4 => 2
  | .ecc3 => 3

/-- STATUS (R36): bit 0 BUSY, bit 1 ERR, bits 7:4 ERRCODE, the rest 0. -/
def statusWord (busy err : Bool) (errcode : BitVec 4) : Word :=
  0#24 ++ errcode ++ 0#2 ++ BitVec.ofBool err ++ BitVec.ofBool busy

/-- ACCV (R38): ACC[0] in bits 7:0, ACC[3] in bits 31:24. -/
def accvWord (acc : Cells) : Word := acc.c3 ++ acc.c2 ++ acc.c1 ++ acc.c0

/-- PGSTATE (R39): PGCNT in bits 7:0, PGSTR in bits 11:8, the rest 0. -/
def pgstateWord (pgcnt : BitVec 8) (pgstr : BitVec 4) : Word := 0#20 ++ pgstr ++ pgcnt

end Sys2Proof.Machine
end

