-- ==== Sys2Proof/Machine/Memory.lean ====
section
/-! DEFINITION. The buffers IBUF and OBUF as lists of written bytes in one canonical form
(10_state.md R41, R42; 20_memory.md R76). -/

namespace Sys2Proof.Machine

/-- The byte last written at offset `a` since reset, if any. -/
def Memory.byteAt (m : Memory) (a : Nat) : Option Byte :=
  (m.find? (fun c => c.1 == a)).map Prod.snd

/-- What a read of offset `a` gives: the byte last written there, or else the free byte of draw number
`draw` (R41, R42, I7, I8; log 4). This is the one definition of what an unlisted offset reads as. -/
def Memory.readByte (m : Memory) (a draw : Nat) : Byte :=
  (m.byteAt a).getD (Config.freeByte draw)

/-- `MemRead(S, off, n)` (R10): byte j is drawn, if it was never written, with draw number `draw + j`. -/
def Memory.readBytes (m : Memory) (off n draw : Nat) : List Byte :=
  (List.range n).map (fun j => m.readByte (off + j) (draw + j))

/-- The cells that hold `bytes` from offset `off` on. -/
def cellsFrom (off : Nat) : List Byte → Memory
  | [] => []
  | b :: bytes => (off, b) :: cellsFrom (off + 1) bytes

/-- `MemWrite(S, off, n, bytes)` with n the number of bytes (R10): the cells below and above the
written range stay. -/
def Memory.store (m : Memory) (off : Nat) (bytes : List Byte) : Memory :=
  m.filter (fun c => decide (c.1 < off)) ++ cellsFrom off bytes
    ++ m.filter (fun c => decide (off + bytes.length ≤ c.1))

/-- The canonical form: offsets strictly rising. (An unlisted offset reads as no fixed value, so no
entry can equal one.) -/
def Memory.wf (m : Memory) : Bool := decide (m.Pairwise (fun x y => x.1 < y.1))

/-- Every listed offset lies below `size`. -/
def Memory.within (m : Memory) (size : Nat) : Bool := m.all (fun c => decide (c.1 < size))

end Sys2Proof.Machine
end

