-- ==== Sys2Proof/Machine/Ops.lean ====
section
/-! DEFINITION. The named operations over registers and buffers that the meanings share: the engine's
two memory primitives, the writes of each register, raising an error and completing a command. The
block has no trap, so there is no exception entry and no return (60_exceptions.md R203, R204):
raising an error is the one shared operation in its place. -/

namespace Sys2Proof.Machine

/-- `MemRead(IBUF, off, n)` (20_memory.md R76): the bytes. The state after it is `s.drew n`. -/
def State.memRead (s : State) (off n : Nat) : List Byte := s.ibuf.readBytes off n s.draws

/-- The state after a read that may have used the next `n` free values (log 5). -/
def State.drew (s : State) (n : Nat) : State := { s with draws := s.draws + n }

/-- `MemWrite(OBUF, off, n, bytes)` (R76). -/
def State.memWrite (s : State) (off : Nat) (bytes : List Byte) : State :=
  { s with obuf := s.obuf.store off bytes }

/-- A write to IBUF, by the HOST only (R41). -/
def State.writeIbuf (s : State) (off : Nat) (bytes : List Byte) : State :=
  { s with ibuf := s.ibuf.store off bytes }

/-- `RESULT <- v` (R37). -/
def State.setResult (s : State) (v : Word) : State := { s with result := v }

/-- `ACC <- acc; PGCNT <- cnt; PGSTR <- str` (R26 to R28). -/
def State.setPg (s : State) (acc : Cells) (cnt : BitVec 8) (str : BitVec 4) : State :=
  { s with acc := acc, pgcnt := cnt, pgstr := str }

/-- The assembler's private accumulator after a chunk (R29). -/
def State.setAsmAcc (s : State) (acc : Cells) : State := { s with asmAcc := acc }

/-- A HOST write of CFG (R32, R64). -/
def State.setCfg (s : State) (v : Word) : State := { s with cfg := cfgStored v }

/-- A HOST write of PAGE_SIZE (R33). -/
def State.setPageSize (s : State) (v : Word) : State := { s with pageSize := v }

/-- A HOST write of BLOCK_SIZE (R34). -/
def State.setBlockSize (s : State) (v : Word) : State := { s with blockSize := v }

/-- Completion without an error (43_control.md R182): ERR and ERRCODE <- 0, PENDING <- none, BUSY <- 0. -/
def State.succeed (s : State) : State :=
  { s with err := false, errcode := 0, pending := none, busy := false }

/-- Raising `Error(code)` (R182, 60_exceptions.md R201): ERR <- 1, ERRCODE <- code, and nothing else
but the end of the command, PENDING <- none, BUSY <- 0. -/
def State.raise (s : State) (c : ErrCode) : State :=
  { s with err := true, errcode := c.code, pending := none, busy := false }

/-- Completion (R182) from a command's outcome: the state with every write of the command, or the
error that ended it before any write. -/
def State.complete (s : State) : Except ErrCode State → State
  | .ok t => t.succeed
  | .error c => s.raise c

/-- Issue (43_control.md R181): an accepted CMD write latches the word, sets BUSY and clears ERR and
ERRCODE. How many HOST steps come before the ENGINE step is a free finite count (R240; log 9). -/
def State.latch (s : State) (w : Word) : State :=
  { s with
    pending := some w, busy := true, err := false, errcode := 0,
    delay := Config.freeDelay s.draws, draws := s.draws + 1 }

/-- Asserting the reset input (70_reset_and_hazards.md R230, R231): every piece of the block's state
takes its reset value (R43), a pending command is dropped; the parameters and the ROMs stay. The
HOST's side and the count of free values are not the block's (log 14). -/
def State.assertReset (s : State) : State :=
  { State.reset with
    params := s.params, rom := s.rom, resetLine := true,
    draws := s.draws, hostTodo := s.hostTodo, hostGot := s.hostGot }

/-- Releasing the reset input (R230). -/
def State.releaseReset (s : State) : State := { s with resetLine := false }

/-- A value goes back to the HOST; each host read uses up four draw numbers, needed or not (log 5). -/
def State.deliver (s : State) (v : Word) : State :=
  { s with hostGot := v :: s.hostGot, draws := s.draws + 4 }

/-- The HOST's moves still to be made. -/
def State.setTodo (s : State) (ms : List HostMove) : State := { s with hostTodo := ms }

/-- The HOST steps still to come before the ENGINE step. -/
def State.setDelay (s : State) (n : Nat) : State := { s with delay := n }

end Sys2Proof.Machine
end

