-- ==== Sys2Proof/Machine/ModeSelect.lean ====
section
/-! DEFINITION. Mode resolution, the configuration check, and the MODE and OUTLEN views
(42_layout_assembler.md R151, R152; 10_state.md R40, R45). -/

namespace Sys2Proof.Machine

/-- `resolve(CFG)` (R151). -/
def resolve (cfg : Word) : Except ErrCode Mode :=
  if cfgStrength cfg ≠ 0 ∧ cfgStrength cfg ≠ 3 ∧ cfgStrength cfg ≠ 4 then .error .cfgBadStrength
  else if cfgStrength cfg = 3 then .ok .ecc3
  else if cfgZeroFill cfg = true ∧ cfgOnesFill cfg = true then .error .cfgFillConflict
  else if cfgZeroFill cfg = true then .ok .zero
  else if cfgOnesFill cfg = true then .ok .ones
  else if cfgStrength cfg = 4 then .ok .ecc4
  else .error .cfgNoMode

/-- The modes that compute parity (R150). -/
def Mode.isEcc : Mode → Bool
  | .zero => false
  | .ones => false
  | .ecc4 => true
  | .ecc3 => true

/-- `check_cfg()` (R152): the first error in the order of the rule. -/
def checkCfg (s : State) : Except ErrCode Layout :=
  if s.blockSize.toNat = 0 then .error .cfgZeroBlock
  else if s.pageSize.toNat = 0 then .error .cfgZeroPage
  else if s.pageSize.toNat % 32 ≠ 0 then .error .cfgPageNotMult32
  else if cfgStrength s.cfg ≠ 0 ∧ cfgStrength s.cfg ≠ 3 ∧ cfgStrength s.cfg ≠ 4 then
    .error .cfgBadStrength
  else if s.params.maxBlockSize < s.blockSize.toNat then .error .cfgBlockTooBig
  else if s.blockSize.toNat % s.pageSize.toNat ≠ 0 then .error .cfgBlockNotMultPage
  else match resolve s.cfg with
    | .error c => .error c
    | .ok mode =>
      if mode.isEcc = true ∧ s.pageSize.toNat % 128 ≠ 0 then .error .cfgEccPageNotMult128
      else .ok ⟨s.pageSize.toNat, s.blockSize.toNat, mode⟩

/-- MODE (R40): bits 1:0 the mode code, bit 8 MVALID, bits 15:12 MERR, the rest 0. -/
def modeWord (cfg : Word) : Word :=
  match resolve cfg with
  | .ok mode => 0#23 ++ 1#1 ++ 0#6 ++ mode.code
  | .error c => 0#16 ++ c.code ++ 0#12

/-- OUTLEN (R45): (BLOCK_SIZE + BLOCK_SIZE div 32) mod 2^32. -/
def outlenWord (blockSize : Word) : Word :=
  BitVec.ofNat 32 (blockSize.toNat + blockSize.toNat / 32)

end Sys2Proof.Machine
end

