-- ==== Sys2Proof/Machine/Bus.lean ====
section
/-! DEFINITION. The HOST's side: register and buffer accesses, the refused ones, issue, WAIT and reset
(20_memory.md R61 to R69; 70_reset_and_hazards.md R230, R233, R234; 43_control.md R181). -/

namespace Sys2Proof.Machine

/-- A 32-bit "any value", made of four free bytes (log 8). -/
def freeWord (draw : Nat) : Word :=
  Config.freeByte (draw + 3) ++ Config.freeByte (draw + 2) ++ Config.freeByte (draw + 1)
    ++ Config.freeByte draw

/-- The word that STATUS shows (R36). -/
def State.status (s : State) : Word := statusWord s.busy s.err s.errcode

/-- A register that a pending command may change reads as any value while BUSY (R234). -/
def State.settled (s : State) (v : Word) : Word := if s.busy then freeWord s.draws else v

/-- The value a read of a register returns (R64, R234). -/
def State.readReg (s : State) : Reg → Word
  | .cfg => s.cfg
  | .pageSize => s.pageSize
  | .blockSize => s.blockSize
  | .cmd => 0
  | .status => s.status
  | .result => s.settled s.result
  | .accv => s.settled (accvWord s.acc)
  | .pgstate => s.settled (pgstateWord s.pgcnt s.pgstr)
  | .mode => modeWord s.cfg
  | .outlen => outlenWord s.blockSize

/-- The value a read of a buffer returns (R65); a byte not written is a fresh free byte (R41, R42). -/
def State.readBuffer (s : State) (m : Memory) (off width : Nat) : Word :=
  busWord width (m.readByte off s.draws) (m.readByte (off + 1) (s.draws + 1))
    (m.readByte (off + 2) (s.draws + 2)) (m.readByte (off + 3) (s.draws + 3))

/-- OBUF as the HOST sees it: while BUSY every byte reads as any value (R234). -/
def State.obufSeen (s : State) : Memory := if s.busy then [] else s.obuf

/-- The value of `HostRead(S, off, w)` for an access that is not refused (R61). -/
def State.hostRead (s : State) (sp : Space) (off width : Nat) : Word :=
  match sp with
  | .reg => match regAt off with
    | some r => s.readReg r
    | none => 0
  | .ibuf => s.readBuffer s.ibuf off width
  | .obuf => s.readBuffer s.obufSeen off width

/-- A write to a register (R64): RW registers store, CMD issues (R181), RO registers ignore it. -/
def State.writeReg (s : State) (r : Reg) (v : Word) : State :=
  match r with
  | .cfg => s.setCfg v
  | .pageSize => s.setPageSize v
  | .blockSize => s.setBlockSize v
  | .cmd => s.latch v
  | .status => s
  | .result => s
  | .accv => s
  | .pgstate => s
  | .mode => s
  | .outlen => s

/-- `HostWrite(S, off, w, v)` for an access that is not refused (R61). -/
def State.hostWrite (s : State) (sp : Space) (off width : Nat) (v : Word) : State :=
  match sp with
  | .reg => match regAt off with
    | some r => s.writeReg r v
    | none => s
  | .ibuf => s.writeIbuf off (busBytes width v)
  | .obuf => s.memWrite off (busBytes width v)

/-- The registers a write to which is a hazard while BUSY (R233). -/
def regWriteHazard : Reg → Bool
  | .cfg => true
  | .pageSize => true
  | .blockSize => true
  | .cmd => true
  | .status => false
  | .result => false
  | .accv => false
  | .pgstate => false
  | .mode => false
  | .outlen => false

/-- A write there while BUSY is a hazard (R233): the four registers and both buffers. -/
def writeHazard (sp : Space) (off : Nat) : Bool :=
  match sp with
  | .reg => match regAt off with
    | some r => regWriteHazard r
    | none => false
  | .ibuf => true
  | .obuf => true

/-- Why the access at (sp, off, width) has no step whatever it does there (R61 to R63, R230), if it has
none. Where several reasons hold the first is named (log 7). -/
def State.refusesAt (s : State) (sp : Space) (off width : Nat) : Option Refusal :=
  if s.resetLine then some .hostInReset
  else if widthAllowed sp width = false then some .hostWidth
  else if aligned off width = false then some .hostMisaligned
  else if sp = .reg ∧ regAt off = none then some .hostUnmapped
  else if inRange s.params sp off width = false then some .hostOutOfRange
  else none

/-- Why a host access has no step (R63), if it has none. -/
def State.refuses (s : State) : Access → Option Refusal
  | .read sp off w => s.refusesAt sp off w
  | .write sp off w _ =>
    match s.refusesAt sp off w with
    | some r => some r
    | none => if s.busy && writeHazard sp off then some .hostWriteWhileBusy else none

/-- A host access that is not refused: a read gives its value back to the HOST and does nothing else
(R69), a write writes. -/
def State.performs (s : State) : Access → State
  | .read sp off w => s.deliver (s.hostRead sp off w)
  | .write sp off w v => s.hostWrite sp off w v

/-- One host access (R61, R63). -/
def hostAccess (a : Access) (s : State) : Host.Outcome State Fault Refusal :=
  match s.refuses a with
  | some r => .refused r
  | none => .next (s.performs a)

/-- One poll of `WAIT` (R89): a read of STATUS, repeated while its BUSY bit is 1. -/
def hostWait (s : State) : Host.Outcome State Fault Refusal :=
  match s.refusesAt .reg 0x10 32 with
  | some r => .refused r
  | none =>
    .next ((if s.busy then s.setTodo (.wait :: s.hostTodo) else s).deliver s.status)

/-- One move of the HOST, the moves after it standing in `s.hostTodo`. -/
def hostMove (m : HostMove) (s : State) : Host.Outcome State Fault Refusal :=
  match m with
  | .access a => hostAccess a s
  | .readAt addr w => match locate s.params addr with
    | some (sp, off) => hostAccess (.read sp off w) s
    | none => .refused .hostAddress
  | .writeAt addr w v => match locate s.params addr with
    | some (sp, off) => hostAccess (.write sp off w v) s
    | none => .refused .hostAddress
  | .wait => hostWait s
  | .assertReset => .next s.assertReset
  | .releaseReset => .next s.releaseReset

/-- One HOST step: its next move, or, when it has none, nothing (R210; log 19). -/
def hostStep (s : State) : Host.Outcome State Fault Refusal :=
  match s.hostTodo with
  | [] => .next s
  | m :: rest => hostMove m (s.setTodo rest)

end Sys2Proof.Machine
end

