-- ==== Sys2Proof/Machine/Gf.lean ====
section
/-! DEFINITION. The Galois Field Engine: its two functions and its four commands (40_gf_engine.md). -/

namespace Sys2Proof.Machine

/-- R100. -/
def gfAdd (a b : Byte) : Byte := a ^^^ b

/-- R101: zero if an operand is zero, else ALOG of the exponent sum modulo 255. -/
def gfMul (r : Rom) (a b : Byte) : Byte :=
  if a = 0 ∨ b = 0 then 0
  else alogAt r (BitVec.ofNat 8 (((logAt r a).toNat + (logAt r b).toNat) % 255))

/-- `GF_ADD A, B` (R102). -/
def execGfAdd (a b : Byte) (s : State) : Host.Outcome State Fault Refusal :=
  .next (s.complete (.ok (s.setResult (zext32 (gfAdd a b)))))

/-- `GF_MUL A, B` (R103). -/
def execGfMul (a b : Byte) (s : State) : Host.Outcome State Fault Refusal :=
  .next (s.complete (.ok (s.setResult (zext32 (gfMul s.rom a b)))))

/-- `GF_LOG A` (R104); A = 0 returns the parameter LOG0. -/
def execGfLog (a : Byte) (s : State) : Host.Outcome State Fault Refusal :=
  .next (s.complete (.ok (s.setResult (zext32 (logAt s.rom a)))))

/-- `GF_ALOG A` (R105). -/
def execGfAlog (a : Byte) (s : State) : Host.Outcome State Fault Refusal :=
  .next (s.complete (.ok (s.setResult (zext32 (alogAt s.rom a)))))

end Sys2Proof.Machine
end

