-- ==== Sys2Proof/Machine/Pg.lean ====
section
/-! DEFINITION. The Parity Generator: the kernel and its four commands (41_parity_generator.md). -/

namespace Sys2Proof.Machine

/-- The ECC-3 generator coefficient of x^0 (10_state.md R24). -/
def g3_0 : Byte := 0x40

/-- The ECC-3 generator coefficient of x^1 (R24). -/
def g3_1 : Byte := 0x38

/-- The ECC-3 generator coefficient of x^2 (R24). -/
def g3_2 : Byte := 0x0E

/-- One feedback step (R120): the input byte is added into the highest-order cell in use, and the
cells move toward the top. Strength 4 uses all four cells; strength 3 uses three and leaves ACC[3]
(R121). No other strength occurs (R28; log 17). -/
def pgStep (r : Rom) (p : Params) (acc : Cells) (d : Byte) (str : BitVec 4) : Cells :=
  if str = 4 then
    let fb := gfAdd d acc.c3
    { c0 := gfMul r fb p.g4_0
      c1 := gfAdd acc.c0 (gfMul r fb p.g4_1)
      c2 := gfAdd acc.c1 (gfMul r fb p.g4_2)
      c3 := gfAdd acc.c2 (gfMul r fb p.g4_3) }
  else
    let fb := gfAdd d acc.c2
    { c0 := gfMul r fb g3_0
      c1 := gfAdd acc.c0 (gfMul r fb g3_1)
      c2 := gfAdd acc.c1 (gfMul r fb g3_2)
      c3 := acc.c3 }

/-- The accumulator after a chunk, from all-zero cells, bytes in ascending order (R122, R125). -/
def chunkAcc (r : Rom) (p : Params) (chunk : List Byte) (str : BitVec 4) : Cells :=
  chunk.foldl (fun acc d => pgStep r p acc d str) Cells.zero

/-- The parity bytes of an accumulator in emission order, most significant first (R122). -/
def parityBytes (acc : Cells) (str : BitVec 4) : List Byte :=
  if str = 4 then [acc.c3, acc.c2, acc.c1, acc.c0] else [acc.c2, acc.c1, acc.c0]

/-- `chunk_parity(c, s)` (R122). -/
def chunkParity (r : Rom) (p : Params) (chunk : List Byte) (str : BitVec 4) : List Byte :=
  parityBytes (chunkAcc r p chunk str) str

/-- `pack(acc, s)` (R123). -/
def pack (acc : Cells) (str : BitVec 4) : Word :=
  if str = 4 then acc.c0 ++ acc.c1 ++ acc.c2 ++ acc.c3
  else 0#8 ++ acc.c0 ++ acc.c1 ++ acc.c2

/-- `PG_CLR S` (R126). -/
def execPgClr (str : BitVec 4) (s : State) : Host.Outcome State Fault Refusal :=
  .next (s.complete
    (if legalStrength str then .ok (s.setPg Cells.zero 0 str) else .error .cfgBadStrength))

/-- `PG_BYTE D` (R127). -/
def execPgByte (d : Byte) (s : State) : Host.Outcome State Fault Refusal :=
  .next (s.complete
    (if s.pgcnt = 128 then .error .pgOverrun
     else .ok (s.setPg (pgStep s.rom s.params s.acc d s.pgstr) (s.pgcnt + 1) s.pgstr)))

/-- `PG_PAR` (R128). -/
def execPgPar (s : State) : Host.Outcome State Fault Refusal :=
  .next (s.complete
    (if s.pgcnt = 128 then .ok (s.setResult (pack s.acc s.pgstr)) else .error .pgIncomplete))

/-- The writes of PG_CHUNK once K is in range (R129). -/
def State.pgChunk (s : State) (off : Nat) : State :=
  let acc := chunkAcc s.rom s.params (s.memRead off 128) s.pgstr
  ((s.drew 128).setPg acc 128 s.pgstr).setResult (pack acc s.pgstr)

/-- `PG_CHUNK K` (R129). -/
def execPgChunk (k : BitVec 24) (s : State) : Host.Outcome State Fault Refusal :=
  .next (s.complete
    (if s.params.maxBlockSize < chunkOffset k + 128 then .error .range
     else .ok (s.pgChunk (chunkOffset k))))

end Sys2Proof.Machine
end

