-- ==== Sys2Proof/Machine/Asm.lean ====
section
/-! DEFINITION. The Layout Assembler: page copy, OOB fill, parity slots, and its two commands
(42_layout_assembler.md). -/

namespace Sys2Proof.Machine

/-- Page copy (R155): page `i`'s bytes, verbatim, into its place in the output block. -/
def State.copyPage (s : State) (l : Layout) (i : Nat) : State :=
  (s.drew l.page).memWrite (l.outAt i) (s.memRead (l.rawAt i) l.page)

/-- Every byte of OOB_i becomes `b` (R156). -/
def State.fillOob (s : State) (l : Layout) (i : Nat) (b : Byte) : State :=
  s.memWrite (l.oobAt i) (List.replicate l.oob b)

/-- Chunk slot `k` of page `i` (R157): the parity of the chunk, read from IBUF again, goes to the next
slot of `str` bytes. The private accumulator starts from zero and keeps the chunk's remainder (R29;
log 11). -/
def State.eccSlot (s : State) (l : Layout) (i : Nat) (str : BitVec 4) (k : Nat) : State :=
  let acc := chunkAcc s.rom s.params (s.memRead (l.rawAt i + 128 * k) 128) str
  ((s.drew 128).setAsmAcc acc).memWrite (l.oobAt i + str.toNat * k) (parityBytes acc str)

/-- The chunk slots 0 .. n-1 of page `i`, in ascending order (R157). -/
def State.eccSlots (s : State) (l : Layout) (i : Nat) (str : BitVec 4) : Nat → State
  | 0 => s
  | n + 1 => (s.eccSlots l i str n).eccSlot l i str n

/-- The OOB of page `i` in the layout's mode (R156). -/
def State.oobFor (s : State) (l : Layout) (i : Nat) : State :=
  match l.mode with
  | .zero => s.fillOob l i 0x00
  | .ones => s.fillOob l i 0xFF
  | .ecc4 => (s.fillOob l i 0xFF).eccSlots l i 4 l.chunks
  | .ecc3 => (s.fillOob l i 0xFF).eccSlots l i 3 l.chunks

/-- `assemble_page(i, P, mode)` (R158). -/
def State.assemblePage (s : State) (l : Layout) (i : Nat) : State :=
  (s.copyPage l i).oobFor l i

/-- Pages 0 .. n-1 in ascending order (R161). -/
def State.assemblePages (s : State) (l : Layout) : Nat → State
  | 0 => s
  | n + 1 => (s.assemblePages l n).assemblePage l n

/-- `ASM_PAGE K` (R160). -/
def execAsmPage (k : BitVec 24) (s : State) : Host.Outcome State Fault Refusal :=
  .next (s.complete
    (match checkCfg s with
     | .error c => .error c
     | .ok l => if l.pages ≤ pageIndex k then .error .range else .ok (s.assemblePage l (pageIndex k))))

/-- `ASM_BLOCK` (R161). -/
def execAsmBlock (s : State) : Host.Outcome State Fault Refusal :=
  .next (s.complete
    (match checkCfg s with
     | .error c => .error c
     | .ok l => .ok (s.assemblePages l l.pages)))

end Sys2Proof.Machine
end

