-- ==== Sys2Proof/Machine/Control.lean ====
section
/-! DEFINITION. Command control: NOP (43_control.md R180) and the illegal word (30_encoding.md R85). -/

namespace Sys2Proof.Machine

/-- `NOP` (R180): nothing but its completion. -/
def execNop (s : State) : Host.Outcome State Fault Refusal := .next (s.complete (.ok s))

/-- The completion of a word that is no command (R85, R182): ILLEGAL_CMD and nothing else. -/
def execIllegal (s : State) : Host.Outcome State Fault Refusal :=
  .next (s.complete (.error .illegalCmd))

end Sys2Proof.Machine
end

