-- ==== Sys2Proof/Machine/Dispatch.lean ====
section
/-! DEFINITION. One arm per command: its meaning (43_control.md R182). -/

namespace Sys2Proof.Machine

/-- Running the whole command `i` and completing it. -/
def exec (i : Instr) (s : State) : Host.Outcome State Fault Refusal :=
  match i with
  | .nop => Sys2Proof.Machine.execNop s
  | .gfAdd a b => Sys2Proof.Machine.execGfAdd a b s
  | .gfMul a b => Sys2Proof.Machine.execGfMul a b s
  | .gfLog a => Sys2Proof.Machine.execGfLog a s
  | .gfAlog a => Sys2Proof.Machine.execGfAlog a s
  | .pgClr str => Sys2Proof.Machine.execPgClr str s
  | .pgByte d => Sys2Proof.Machine.execPgByte d s
  | .pgPar => Sys2Proof.Machine.execPgPar s
  | .pgChunk k => Sys2Proof.Machine.execPgChunk k s
  | .asmPage k => Sys2Proof.Machine.execAsmPage k s
  | .asmBlock => Sys2Proof.Machine.execAsmBlock s

end Sys2Proof.Machine
end

