-- ==== Sys2Proof/Machine/Engine.lean ====
section
/-! DEFINITION. The ENGINE's one kind of step (43_control.md R182) and which agent moves next
(70_reset_and_hazards.md R240, R241). -/

namespace Sys2Proof.Machine

/-- Completion of the pending word (R182): decode it, run it whole, or end it as illegal. -/
def engineStep (w : Word) (s : State) : Host.Outcome State Fault Refusal :=
  match decode w with
  | .ok i => exec i s
  | .error _ => execIllegal s

/-- The next step of the machine: while a command is pending, `delay` HOST steps and then the ENGINE
step (R240, R241; log 9); with nothing pending, or in reset, a HOST step. -/
def nextStep (s : State) : Host.Outcome State Fault Refusal :=
  if s.resetLine then hostStep s
  else match s.pending with
    | none => hostStep s
    | some w => match s.delay with
      | 0 => engineStep w s
      | n + 1 => hostStep (s.setDelay n)

/-- The state in which the very next step completes the command word `w`: as an accepted CMD write
leaves it (R181), with no HOST step in between (R240: "It may be zero"). -/
def State.aboutToRun (s : State) (w : Word) : State :=
  { s with
    pending := some w, busy := true, err := false, errcode := 0, delay := 0, resetLine := false }

end Sys2Proof.Machine
end

