-- ==== Sys2Proof/Machine/Step.lean ====
section
/-! DEFINITION. One step of the machine, and how a command word stands ready to be run. -/

namespace Sys2Proof.Machine

/-- One step: of the HOST or of the ENGINE (00_scope.md R5). -/
def step (s : State) : Host.Outcome State Fault Refusal := nextStep s

/-- `s` with the instruction of `nbits` bits `w` where the ENGINE takes its next command: PENDING
(43_control.md R181, R182; log 15). -/
def State.withFetchWord (s : State) (nbits w : Nat) : State := s.aboutToRun (tableWord nbits w)

end Sys2Proof.Machine
end

