-- ==== Sys2Proof/Machine/HostProgram.lean ====
section
/-! DEFINITION. The host-program notation of 30_encoding.md R89, as lists of HOST moves. The HOST's own
control flow (its loops over k and j) is outside the block (R183): a program here is the list of
moves such a loop makes. -/

namespace Sys2Proof.Machine

/-- The offset of a register (10_state.md R31). -/
def regOffset : Reg → Nat
  | .cfg => 0x00
  | .pageSize => 0x04
  | .blockSize => 0x08
  | .cmd => 0x0C
  | .status => 0x10
  | .result => 0x14
  | .accv => 0x18
  | .pgstate => 0x1C
  | .mode => 0x20
  | .outlen => 0x24

/-- `WR reg, v` -/
def wr (r : Reg) (v : Word) : HostMove := .access (.write .reg (regOffset r) 32 v)

/-- `RD reg` -/
def rd (r : Reg) : HostMove := .access (.read .reg (regOffset r) 32)

/-- `WR8 IBUF[k], v` -/
def wr8 (k : Nat) (v : Byte) : HostMove := .access (.write .ibuf k 8 (zext32 v))

/-- `RD8 OBUF[k]` -/
def rd8 (k : Nat) : HostMove := .access (.read .obuf k 8)

/-- `WR32 IBUF[k], v` -/
def wr32 (k : Nat) (v : Word) : HostMove := .access (.write .ibuf k 32 v)

/-- `RD32 OBUF[k]` -/
def rd32 (k : Nat) : HostMove := .access (.read .obuf k 32)

/-- `ISSUE cmd` expands to `WR CMD, encode(cmd); WAIT`. -/
def issue (i : Instr) : List HostMove := [wr .cmd (encode i), .wait]

end Sys2Proof.Machine
end

