-- ==== Sys2Proof/Safety.lean ====
section
/-! DEFINITION. The terms claims use: the invariant of the machine's states, and what a safe step is. -/

namespace Sys2Proof.Machine

/-- What every state of a legal machine satisfies. Each clause is a sentence of the spec. -/
structure State.Inv (s : State) : Prop where
  /-- The parameters meet R7. -/
  params_wf : Params.wf s.params = true
  /-- The ROMs hold the contents of R20 and R21 (R22). -/
  rom_eq : s.rom = romOf s.params
  /-- PGCNT is 0..128 (R27). -/
  pgcnt_le : s.pgcnt.toNat ≤ 128
  /-- PGSTR is always 3 or 4 (R28). -/
  pgstr_legal : s.pgstr = 3 ∨ s.pgstr = 4
  /-- ACC[3] is 0 while the strength is 3 (R121). -/
  acc3_zero : s.pgstr = 3 → s.acc.c3 = 0
  /-- BUSY equals "PENDING is not none" (R30). -/
  busy_iff : s.busy = s.pending.isSome
  /-- ERR = 1 exactly when ERRCODE /= 0 (R36). -/
  err_iff : s.err = true ↔ s.errcode ≠ 0
  /-- Codes 14 and 15 are never reported (R200). -/
  errcode_le : s.errcode.toNat ≤ 13
  /-- No error is shown while BUSY (R181, R234). -/
  busy_noerr : s.busy = true → s.err = false
  /-- CFG bits 31:6 read as 0 (R32). -/
  cfg_reserved : s.cfg.toNat < 64
  /-- IBUF is in canonical form and inside its space (R41). -/
  ibuf_wf : s.ibuf.wf = true
  ibuf_within : s.ibuf.within s.params.maxBlockSize = true
  /-- OBUF is in canonical form and inside its space (R42). -/
  obuf_wf : s.obuf.wf = true
  obuf_within : s.obuf.within (obufSize s.params) = true
  /-- In reset nothing is pending (R230). -/
  reset_idle : s.resetLine = true → s.pending = none

/-- A safe state: the machine takes a step from it. -/
def State.Safe (s : State) : Prop := ∃ t, step s = .next t

end Sys2Proof.Machine
end

