-- ==== Sys2Proof/WellFormed.lean ====
section
/-! DEFINITION. Which terms of the syntax are accesses of the interface (20_memory.md R61, R62), as far
as their text alone tells. An `Instr` needs no check: each operand has exactly its field's width, so
every term of it is the meaning of a legal word (30_encoding.md R82); an operand value a command
rejects is not ill-formed (R86). -/

namespace Sys2Proof

open Sys2Proof.Machine (widthAllowed aligned)

/-- The value of a `width`-bit write has no bit above `width` (R61). -/
def fitsWidth (width : Nat) (v : Word) : Bool := decide (v.toNat < 2 ^ width)

/-- The access has a width its space allows (R61), is aligned (R62), and a written value fits (R61). -/
def Access.wellFormed : Access → Bool
  | .read sp off w => widthAllowed sp w && aligned off w
  | .write sp off w v => widthAllowed sp w && aligned off w && fitsWidth w v

/-- A move is well-formed when its access is; by platform address, when some space allows its width. -/
def HostMove.wellFormed : HostMove → Bool
  | .access a => a.wellFormed
  | .readAt _ w => widthAllowed .ibuf w
  | .writeAt _ w v => widthAllowed .ibuf w && fitsWidth w v
  | .wait => true
  | .assertReset => true
  | .releaseReset => true

end Sys2Proof
end

