-- ==== Sys2Proof/Certificates/Slice0/Obligations.lean ====
section
/-! DEFINITION. The statements about the model, one `def Obligations.<Name> : Prop` each, and the few
words they share. The free values (Config.freeByte, Config.freeDelay) stand in them as unknowns. -/

namespace Sys2Proof.Claims

open Sys2Proof.Machine

/-- The status part of a completion without an error (R182): ERR, ERRCODE, BUSY <- 0, PENDING <- none. -/
def done (s : State) : State := { s with err := false, errcode := 0, pending := none, busy := false }

/-- `s` after a command that raised the error with number `c`: STATUS and the end of the command, and
nothing else (R182, R201). -/
def failed (s : State) (c : BitVec 4) : State :=
  { s with err := true, errcode := c, pending := none, busy := false }

/-- The opcode byte of a word (R80). -/
def opcode (w : Word) : BitVec 8 := w.extractLsb' 24 8

/-- The decoder rejects the word. -/
def isIllegal (w : Word) : Prop := ∃ e, decode w = .error e

/-- The commands of a list run to completion one after the other (R72.4). -/
def runCommands : List Instr → State → Option State
  | [], s => some s
  | i :: is, s => match exec i s with
    | .next t => runCommands is t
    | _ => none

/-- The buffer holds the bytes `c` from `off` on, all written. -/
def holds (m : Memory) (off : Nat) (ch : List Byte) : Prop :=
  ∀ j, (h : j < ch.length) → m.byteAt (off + j) = some ch[j]

/-- Every byte of [0, n) was written. -/
def allWritten (m : Memory) (n : Nat) : Prop := ∀ a, a < n → ∃ b, m.byteAt a = some b

/-- `ch` is what a read of `n` bytes from `off` can give (R76): a byte that was written is itself, the
others are any value (R41). -/
def readFrom (m : Memory) (off n : Nat) (ch : List Byte) : Prop :=
  ch.length = n ∧ ∀ j b, j < n → m.byteAt (off + j) = some b → ch[j]? = some b

/-- The strength of an ECC mode (R157). -/
def strengthOf : Mode → Option (BitVec 4)
  | .zero => none
  | .ones => none
  | .ecc4 => some 4
  | .ecc3 => some 3

/-- OBUF of `t` holds page `i` and its OOB as R155, R156 and R157 lay them out from the IBUF of `s`. -/
def pageLaidOut (s t : State) (l : Layout) (i : Nat) : Prop :=
  (∀ j, j < l.page →
    (∃ b, t.obuf.byteAt (i * (l.page + l.page / 32) + j) = some b) ∧
    (∀ b, s.ibuf.byteAt (i * l.page + j) = some b →
      t.obuf.byteAt (i * (l.page + l.page / 32) + j) = some b)) ∧
  (l.mode = .zero → ∀ j, j < l.page / 32 →
    t.obuf.byteAt (i * (l.page + l.page / 32) + l.page + j) = some 0x00) ∧
  (l.mode = .ones → ∀ j, j < l.page / 32 →
    t.obuf.byteAt (i * (l.page + l.page / 32) + l.page + j) = some 0xFF) ∧
  (∀ str, strengthOf l.mode = some str →
    (∀ k, k < l.page / 128 → ∃ ch : List Byte, readFrom s.ibuf (i * l.page + 128 * k) 128 ch ∧
      ∀ j, j < str.toNat →
        ∃ b, (chunkParity s.rom s.params ch str)[j]? = some b ∧
          t.obuf.byteAt (i * (l.page + l.page / 32) + l.page + str.toNat * k + j) = some b) ∧
    (∀ j, str.toNat * (l.page / 128) ≤ j → j < l.page / 32 →
      t.obuf.byteAt (i * (l.page + l.page / 32) + l.page + j) = some 0xFF))

/-- `t` differs from `s` at most in OBUF, in the unobservable private accumulator, in the count of free
values used, and in the status part of a completion without an error. -/
def onlyObufFrom (s t : State) : Prop :=
  t = done { s with obuf := t.obuf, asmAcc := t.asmAcc, draws := t.draws }

/-- Coefficients of the generator polynomial of a strength, x^0 first, the leading 1 included
(R24, R25, R124). -/
def generator (p : Params) (str : BitVec 4) : List Byte :=
  if str = 4 then [p.g4_0, p.g4_1, p.g4_2, p.g4_3, 1] else [0x40, 0x38, 0x0E, 1]

/-- Coefficient of x^i in the product of two polynomials given by coefficient lists, x^0 first. -/
def productCoeff (r : Rom) (q g : List Byte) (i : Nat) : Byte :=
  (List.range (i + 1)).foldl (fun acc j => acc ^^^ gfMul r (q.getD j 0) (g.getD (i - j) 0)) 0

/-- Coefficient of x^i in D(x)·x^n, where the chunk's first byte has the highest degree (R11, R124). -/
def shiftedDataCoeff (ch : List Byte) (n i : Nat) : Byte :=
  if i < n then 0 else ch.reverse.getD (i - n) 0

/-- The accumulator's coefficients in use, x^0 first (R124). -/
def remainderCoeffs (acc : Cells) (str : BitVec 4) : List Byte :=
  if str = 4 then [acc.c0, acc.c1, acc.c2, acc.c3] else [acc.c0, acc.c1, acc.c2]

/-- The block's own state agrees: everything but the HOST's side and the model's counters. -/
def sameBlock (s t : State) : Prop :=
  t = { s with delay := t.delay, draws := t.draws, hostTodo := t.hostTodo, hostGot := t.hostGot }

/-- The move is a host write that reaches CMD. -/
def writesCmd (p : Params) : HostMove → Prop
  | .access (.write .reg 0x0C 32 _) => True
  | .writeAt addr 32 _ => locate p addr = some (.reg, 0x0C)
  | _ => False

/-- A host access that stores: a write to a RW register or to a buffer, or a CMD write (R233). -/
def hazardousWrite : Access → Prop
  | .read _ _ _ => False
  | .write .reg off _ _ => off = 0x00 ∨ off = 0x04 ∨ off = 0x08 ∨ off = 0x0C
  | .write .ibuf _ _ _ => True
  | .write .obuf _ _ _ => True

/-- Space, offset and width of an access. -/
def target : Access → Space × Nat × Nat
  | .read sp off w => (sp, off, w)
  | .write sp off w _ => (sp, off, w)

/-- The access is outside the interface for its shape (R61, R62, R63): width, alignment, range,
unmapped register. -/
def badShape (p : Params) (a : Access) : Prop :=
  match target a with
  | (.reg, off, w) => w ≠ 32 ∨ off % 4 ≠ 0 ∨ 0x28 < off + w / 8
  | (.ibuf, off, w) =>
    (w ≠ 8 ∧ w ≠ 32) ∨ (w = 32 ∧ off % 4 ≠ 0) ∨ p.maxBlockSize < off + w / 8
  | (.obuf, off, w) =>
    (w ≠ 8 ∧ w ≠ 32) ∨ (w = 32 ∧ off % 4 ≠ 0)
      ∨ p.maxBlockSize + p.maxBlockSize / 32 < off + w / 8

/-- `t` differs from `s` at most in the register at offset `off` of REG, or in the `w / 8` bytes from
`off` on of a buffer. -/
def writesOnly (sp : Space) (off w : Nat) (s t : State) : Prop :=
  t = { s with
    cfg := t.cfg, pageSize := t.pageSize, blockSize := t.blockSize, ibuf := t.ibuf, obuf := t.obuf } ∧
  (¬ (sp = .reg ∧ off = 0x00) → t.cfg = s.cfg) ∧
  (¬ (sp = .reg ∧ off = 0x04) → t.pageSize = s.pageSize) ∧
  (¬ (sp = .reg ∧ off = 0x08) → t.blockSize = s.blockSize) ∧
  (∀ a, ¬ (sp = .ibuf ∧ off ≤ a ∧ a < off + w / 8) → t.ibuf.byteAt a = s.ibuf.byteAt a) ∧
  (∀ a, ¬ (sp = .obuf ∧ off ≤ a ∧ a < off + w / 8) → t.obuf.byteAt a = s.obuf.byteAt a)

/-- The state after a host read that returned `v` (R69): the block is unchanged; the count of free
values used is the model's (log 5). -/
def returned (s : State) (v : Word) : State :=
  { s with hostGot := v :: s.hostGot, draws := s.draws + 4 }

end Sys2Proof.Claims

open Sys2Proof Sys2Proof.Machine Sys2Proof.Claims

/-! ### Encoding -/

/-- Words of 95_test_vectors.md 6.1 and 3 to 5, each written out from its encoding. -/
def Obligations.DecodeOfWordsFromTheSpec : Prop :=
  decode 0x00000000 = .ok .nop ∧
  decode 0x01000F0A = .ok (.gfAdd 0x0F 0x0A) ∧
  decode 0x02000204 = .ok (.gfMul 0x02 0x04) ∧
  decode 0x03000080 = .ok (.gfLog 0x80) ∧
  decode 0x040000FF = .ok (.gfAlog 0xFF) ∧
  decode 0x10000007 = .ok (.pgClr 7) ∧
  decode 0x11000055 = .ok (.pgByte 0x55) ∧
  decode 0x12000000 = .ok .pgPar ∧
  decode 0x13FFFFFF = .ok (.pgChunk 0xFFFFFF) ∧
  decode 0x20000001 = .ok (.asmPage 1) ∧
  decode 0x21000000 = .ok .asmBlock ∧
  decode 0x00000001 = .error .reservedBits ∧
  decode 0x01010F0A = .error .reservedBits ∧
  decode 0x03000100 = .error .reservedBits ∧
  decode 0x10000013 = .error .reservedBits ∧
  decode 0x21000001 = .error .reservedBits ∧
  decode 0x05000000 = .error .undefinedOpcode ∧
  decode 0xFF000000 = .error .undefinedOpcode

/-- R81, R83, R84, R88: the decoder gives every command back from its encoded word, with every operand
at every value of its field. -/
def Obligations.DecodeAfterEncode : Prop := ∀ i : Instr, decode (encode i) = .ok i

/-- R83: "No word matches two rows": a word the decoder accepts is the encoding of what it reads. -/
def Obligations.EncodeAfterDecode : Prop := ∀ (w : Word) (i : Instr), decode w = .ok i → encode i = w

/-- R82, R83, R84: which command each word selects, and its operands; every other word is illegal. -/
def Obligations.DecodeIsTheOpcodeMap : Prop :=
  ∀ w : Word,
    (opcode w = 0x00 → w.extractLsb' 0 24 = 0#24 → decode w = .ok .nop) ∧
    (opcode w = 0x01 → w.extractLsb' 16 8 = 0#8 →
      decode w = .ok (.gfAdd (w.extractLsb' 8 8) (w.extractLsb' 0 8))) ∧
    (opcode w = 0x02 → w.extractLsb' 16 8 = 0#8 →
      decode w = .ok (.gfMul (w.extractLsb' 8 8) (w.extractLsb' 0 8))) ∧
    (opcode w = 0x03 → w.extractLsb' 8 16 = 0#16 → decode w = .ok (.gfLog (w.extractLsb' 0 8))) ∧
    (opcode w = 0x04 → w.extractLsb' 8 16 = 0#16 → decode w = .ok (.gfAlog (w.extractLsb' 0 8))) ∧
    (opcode w = 0x10 → w.extractLsb' 4 20 = 0#20 → decode w = .ok (.pgClr (w.extractLsb' 0 4))) ∧
    (opcode w = 0x11 → w.extractLsb' 8 16 = 0#16 → decode w = .ok (.pgByte (w.extractLsb' 0 8))) ∧
    (opcode w = 0x12 → w.extractLsb' 0 24 = 0#24 → decode w = .ok .pgPar) ∧
    (opcode w = 0x13 → decode w = .ok (.pgChunk (w.extractLsb' 0 24))) ∧
    (opcode w = 0x20 → decode w = .ok (.asmPage (w.extractLsb' 0 24))) ∧
    (opcode w = 0x21 → w.extractLsb' 0 24 = 0#24 → decode w = .ok .asmBlock)

/-- R85: exactly the words with an undefined opcode or a "must be 0" bit set are illegal, and one
completes with ILLEGAL_CMD (code 1) and changes no state other than STATUS. -/
def Obligations.IllegalWordsChangeOnlyStatus : Prop :=
  (∀ w : Word, isIllegal w ↔
    ((0x05 ≤ (opcode w).toNat ∧ (opcode w).toNat ≤ 0x0F) ∨
     (0x14 ≤ (opcode w).toNat ∧ (opcode w).toNat ≤ 0x1F) ∨
     0x22 ≤ (opcode w).toNat ∨
     ((opcode w = 0x00 ∨ opcode w = 0x12 ∨ opcode w = 0x21) ∧ w.extractLsb' 0 24 ≠ 0#24) ∨
     ((opcode w = 0x01 ∨ opcode w = 0x02) ∧ w.extractLsb' 16 8 ≠ 0#8) ∨
     ((opcode w = 0x03 ∨ opcode w = 0x04 ∨ opcode w = 0x11) ∧ w.extractLsb' 8 16 ≠ 0#16) ∨
     (opcode w = 0x10 ∧ w.extractLsb' 4 20 ≠ 0#20))) ∧
  (∀ (s : State) (w : Word), isIllegal w → s.pending = some w → s.delay = 0 → s.resetLine = false →
    step s = .next (failed s 1))

/-! ### Steps -/

/-- R182, R240: when the pending word decodes to `i` and no HOST step comes first, the step is `exec i`
of the very state (nothing is added); while `delay` is not 0, with nothing pending, or in reset, the
step is the HOST's. -/
def Obligations.StepRunsTheDecodedCommand : Prop :=
  (∀ (s : State) (w : Word) (i : Instr), s.resetLine = false → s.pending = some w → s.delay = 0 →
    decode w = .ok i → step s = exec i s) ∧
  (∀ (s : State) (w : Word) (n : Nat), s.resetLine = false → s.pending = some w → s.delay = n + 1 →
    step s = hostStep { s with delay := n }) ∧
  (∀ s : State, s.pending = none → step s = hostStep s) ∧
  (∀ s : State, s.resetLine = true → step s = hostStep s) ∧
  (∀ (s : State) (m : HostMove) (rest : List HostMove), s.hostTodo = m :: rest →
    hostStep s = hostMove m { s with hostTodo := rest }) ∧
  (∀ s : State, s.hostTodo = [] → hostStep s = .next s)

/-- R182: every command, in every state, completes: PENDING and BUSY are cleared, and STATUS tells an
error exactly by ERR. -/
def Obligations.EveryCommandCompletes : Prop :=
  ∀ (i : Instr) (s : State), ∃ t, exec i s = .next t ∧ t.pending = none ∧ t.busy = false ∧
    (t.err = true ↔ t.errcode ≠ 0)

/-- R181: a CMD write while BUSY = 0 is accepted, whatever the word, and changes nothing else in the
block; one while BUSY = 1 is refused. -/
def Obligations.CmdWriteIssues : Prop :=
  ∀ (s : State) (w : Word), s.resetLine = false →
    (s.busy = false → ∃ t, hostMove (.access (.write .reg 0x0C 32 w)) s = .next t ∧
      sameBlock { s with pending := some w, busy := true, err := false, errcode := 0 } t ∧
      t.hostTodo = s.hostTodo ∧ t.hostGot = s.hostGot) ∧
    (s.busy = true → ∃ r, hostMove (.access (.write .reg 0x0C 32 w)) s = .refused r)

/-! ### Galois Field Engine -/

/-- R180: NOP changes nothing but the status part of its completion, and 0x00000000 is its one word. -/
def Obligations.NopOnlyCompletes : Prop :=
  (∀ s : State, exec .nop s = .next (done s)) ∧
  (∀ w : Word, opcode w = 0x00 → (w = 0 → decode w = .ok .nop) ∧ (w ≠ 0 → isIllegal w))

/-- R100, R102: GF_ADD writes the exclusive-or, zero-extended, and nothing else. -/
def Obligations.GfAddWritesXor : Prop :=
  (∀ (a b : Byte) (s : State), exec (.gfAdd a b) s = .next (done { s with result := zext32 (a ^^^ b) })) ∧
  (∀ w : Word, opcode w = 0x01 →
    (w.extractLsb' 16 8 = 0#8 →
      decode w = .ok (.gfAdd (w.extractLsb' 8 8) (w.extractLsb' 0 8))) ∧
    (w.extractLsb' 16 8 ≠ 0#8 → isIllegal w))

/-- R101, R103: GF_MUL writes the table product, zero-extended, and nothing else; A = 1 gives B, and
`GF_MUL 0x02, 0x04` gives 0x08 for every GF_POLY. -/
def Obligations.GfMulWritesTableProduct : Prop :=
  (∀ (a b : Byte) (s : State),
    (a = 0 ∨ b = 0 → exec (.gfMul a b) s = .next (done { s with result := 0 })) ∧
    (a ≠ 0 → b ≠ 0 → exec (.gfMul a b) s = .next (done { s with
      result := zext32 (alogAt s.rom
        (BitVec.ofNat 8 (((logAt s.rom a).toNat + (logAt s.rom b).toNat) % 255))) }))) ∧
  (∀ s : State, s.Inv →
    (∀ b : Byte, exec (.gfMul 1 b) s = .next (done { s with result := zext32 b })) ∧
    exec (.gfMul 0x02 0x04) s = .next (done { s with result := 0x00000008 })) ∧
  (∀ w : Word, opcode w = 0x02 →
    (w.extractLsb' 16 8 = 0#8 →
      decode w = .ok (.gfMul (w.extractLsb' 8 8) (w.extractLsb' 0 8))) ∧
    (w.extractLsb' 16 8 ≠ 0#8 → isIllegal w))

/-- R104: GF_LOG writes LOG[A]; A = 0 gives LOG0, A = 1 gives 0, a nonzero A gives 0..254. -/
def Obligations.GfLogWritesLog : Prop :=
  (∀ (a : Byte) (s : State), exec (.gfLog a) s = .next (done { s with result := zext32 (logAt s.rom a) })) ∧
  (∀ s : State, s.Inv → logAt s.rom 0 = s.params.log0 ∧ logAt s.rom 1 = 0 ∧
    ∀ a : Byte, a ≠ 0 → (logAt s.rom a).toNat ≤ 254) ∧
  (∀ w : Word, opcode w = 0x03 →
    (w.extractLsb' 8 16 = 0#16 → decode w = .ok (.gfLog (w.extractLsb' 0 8))) ∧
    (w.extractLsb' 8 16 ≠ 0#16 → isIllegal w))

/-- R105: GF_ALOG writes ALOG[A]; A = 0 and A = 255 give 1, and the result is never 0. -/
def Obligations.GfAlogWritesAlog : Prop :=
  (∀ (a : Byte) (s : State),
    exec (.gfAlog a) s = .next (done { s with result := zext32 (alogAt s.rom a) })) ∧
  (∀ s : State, s.Inv → alogAt s.rom 0 = 1 ∧ alogAt s.rom 255 = 1 ∧ ∀ a : Byte, alogAt s.rom a ≠ 0) ∧
  (∀ w : Word, opcode w = 0x04 →
    (w.extractLsb' 8 16 = 0#16 → decode w = .ok (.gfAlog (w.extractLsb' 0 8))) ∧
    (w.extractLsb' 8 16 ≠ 0#16 → isIllegal w))

/-- R20: ALOG holds the powers of GF_GEN, ALOG[255] = ALOG[0] = 1, and entries 0..254 are the nonzero
elements, each exactly once. -/
def Obligations.AlogHoldsEveryNonzeroElementOnce : Prop :=
  ∀ s : State, s.Inv →
    (∀ e : Byte, e.toNat ≤ 254 →
      alogAt s.rom e = fieldPow s.params.gfPoly s.params.gfGen e.toNat) ∧
    alogAt s.rom 255 = alogAt s.rom 0 ∧ alogAt s.rom 0 = 1 ∧
    (∀ e : Byte, alogAt s.rom e ≠ 0) ∧
    (∀ a : Byte, a ≠ 0 → ∃ e : Byte, (e.toNat ≤ 254 ∧ alogAt s.rom e = a) ∧
      ∀ e' : Byte, e'.toNat ≤ 254 → alogAt s.rom e' = a → e' = e)

/-- R21: LOG[a] is the one e in 0..254 with ALOG[e] = a, for every nonzero a; LOG[0] = LOG0. -/
def Obligations.LogInvertsAlog : Prop :=
  ∀ s : State, s.Inv → logAt s.rom 0 = s.params.log0 ∧
    ∀ a : Byte, a ≠ 0 → (logAt s.rom a).toNat ≤ 254 ∧ alogAt s.rom (logAt s.rom a) = a ∧
      ∀ e : Byte, e.toNat ≤ 254 → alogAt s.rom e = a → e = logAt s.rom a

/-- R23: the tables realise field multiplication modulo GF_POLY, whatever the parameters are. -/
def Obligations.TableProductIsFieldProduct : Prop :=
  ∀ s : State, s.Inv →
    (∀ a b : Byte, a ≠ 0 → b ≠ 0 →
      alogAt s.rom (BitVec.ofNat 8 (((logAt s.rom a).toNat + (logAt s.rom b).toNat) % 255))
        = fieldMul s.params.gfPoly a b) ∧
    (∀ a b : Byte, gfMul s.rom a b = fieldMul s.params.gfPoly a b)

/-- R106: the seven laws of the two field functions. -/
def Obligations.FieldLaws : Prop :=
  ∀ s : State, s.Inv →
    (∀ a, gfMul s.rom a 0 = 0 ∧ gfMul s.rom 0 a = 0) ∧
    (∀ a, gfMul s.rom a 1 = a) ∧
    (∀ a b, gfMul s.rom a b = gfMul s.rom b a) ∧
    (∀ a, gfAdd a a = 0 ∧ gfAdd a 0 = a) ∧
    (∀ a b c, gfAdd a b = gfAdd b a ∧ gfAdd (gfAdd a b) c = gfAdd a (gfAdd b c)) ∧
    (∀ a b c, gfMul s.rom (gfMul s.rom a b) c = gfMul s.rom a (gfMul s.rom b c) ∧
      gfMul s.rom a (gfAdd b c) = gfAdd (gfMul s.rom a b) (gfMul s.rom a c)) ∧
    (∀ a, a ≠ 0 →
      gfMul s.rom a (alogAt s.rom (BitVec.ofNat 8 ((255 - (logAt s.rom a).toNat) % 255))) = 1)

/-- R24: the ECC-3 coefficients are those of (x + 2)(x + 4)(x + 8), whatever GF_POLY is. -/
def Obligations.Ecc3CoefficientsAreTheProduct : Prop :=
  ∀ s : State, s.Inv →
    g3_2 = 0x0E ∧ g3_1 = 0x38 ∧ g3_0 = 0x40 ∧
    g3_2 = gfAdd (gfAdd 0x02 0x04) 0x08 ∧
    g3_1 = gfAdd (gfAdd (gfMul s.rom 0x02 0x04) (gfMul s.rom 0x02 0x08)) (gfMul s.rom 0x04 0x08) ∧
    g3_0 = gfMul s.rom (gfMul s.rom 0x02 0x04) 0x08 ∧
    ∀ v : Byte,
      gfMul s.rom (gfMul s.rom (gfAdd v 0x02) (gfAdd v 0x04)) (gfAdd v 0x08)
        = gfAdd (gfAdd (gfAdd (gfMul s.rom (gfMul s.rom v v) v) (gfMul s.rom g3_2 (gfMul s.rom v v)))
            (gfMul s.rom g3_1 v)) g3_0

/-! ### Parity Generator -/

/-- R126: PG_CLR 3 and PG_CLR 4 start a chunk; every other S ends with code 5 and changes nothing else. -/
def Obligations.PgClrStartsAChunk : Prop :=
  (∀ (str : BitVec 4) (s : State),
    (str = 3 ∨ str = 4 → exec (.pgClr str) s
      = .next (done { s with acc := ⟨0, 0, 0, 0⟩, pgcnt := 0, pgstr := str })) ∧
    (str ≠ 3 → str ≠ 4 → exec (.pgClr str) s = .next (failed s 5))) ∧
  (∀ w : Word, opcode w = 0x10 →
    (w.extractLsb' 4 20 = 0#20 → decode w = .ok (.pgClr (w.extractLsb' 0 4))) ∧
    (w.extractLsb' 4 20 ≠ 0#20 → isIllegal w))

/-- R120, R121, R127: PG_BYTE feeds one byte through the division shift register of the strength, or
ends with code 12 when 128 bytes were fed. -/
def Obligations.PgByteStepsTheKernel : Prop :=
  (∀ (d : Byte) (s : State),
    (s.pgcnt = 128 → exec (.pgByte d) s = .next (failed s 12)) ∧
    (s.pgcnt ≠ 128 → s.pgstr = 4 → exec (.pgByte d) s = .next (done { s with
      pgcnt := s.pgcnt + 1
      acc := ⟨gfMul s.rom (d ^^^ s.acc.c3) s.params.g4_0,
        s.acc.c0 ^^^ gfMul s.rom (d ^^^ s.acc.c3) s.params.g4_1,
        s.acc.c1 ^^^ gfMul s.rom (d ^^^ s.acc.c3) s.params.g4_2,
        s.acc.c2 ^^^ gfMul s.rom (d ^^^ s.acc.c3) s.params.g4_3⟩ })) ∧
    (s.pgcnt ≠ 128 → s.pgstr = 3 → exec (.pgByte d) s = .next (done { s with
      pgcnt := s.pgcnt + 1
      acc := ⟨gfMul s.rom (d ^^^ s.acc.c2) 0x40,
        s.acc.c0 ^^^ gfMul s.rom (d ^^^ s.acc.c2) 0x38,
        s.acc.c1 ^^^ gfMul s.rom (d ^^^ s.acc.c2) 0x0E,
        s.acc.c3⟩ }))) ∧
  (∀ w : Word, opcode w = 0x11 →
    (w.extractLsb' 8 16 = 0#16 → decode w = .ok (.pgByte (w.extractLsb' 0 8))) ∧
    (w.extractLsb' 8 16 ≠ 0#16 → isIllegal w))

/-- R123, R128: PG_PAR writes the parity bytes into RESULT, byte j the j-th emitted, or ends with
code 13 when fewer than 128 bytes were fed. -/
def Obligations.PgParPacksTheParity : Prop :=
  (∀ s : State,
    (s.pgcnt ≠ 128 → exec .pgPar s = .next (failed s 13)) ∧
    (s.pgcnt = 128 → s.pgstr = 4 → ∃ v : Word, exec .pgPar s = .next (done { s with result := v }) ∧
      v.extractLsb' 0 8 = s.acc.c3 ∧ v.extractLsb' 8 8 = s.acc.c2 ∧
      v.extractLsb' 16 8 = s.acc.c1 ∧ v.extractLsb' 24 8 = s.acc.c0) ∧
    (s.pgcnt = 128 → s.pgstr = 3 → ∃ v : Word, exec .pgPar s = .next (done { s with result := v }) ∧
      v.extractLsb' 0 8 = s.acc.c2 ∧ v.extractLsb' 8 8 = s.acc.c1 ∧
      v.extractLsb' 16 8 = s.acc.c0 ∧ v.extractLsb' 24 8 = 0#8)) ∧
  (∀ w : Word, opcode w = 0x12 → (w = 0x12000000 → decode w = .ok .pgPar) ∧
    (w ≠ 0x12000000 → isIllegal w))

/-- R122, R123, R129: PG_CHUNK leaves the remainder of the 128 IBUF bytes in ACC, 128 in PGCNT and the
parity in RESULT, or ends with code 11 when the chunk passes the end of IBUF. Bytes never written are
free. -/
def Obligations.PgChunkComputesTheParity : Prop :=
  (∀ (k : BitVec 24) (s : State),
    (s.params.maxBlockSize < k.toNat + 128 → exec (.pgChunk k) s = .next (failed s 11)) ∧
    (k.toNat + 128 ≤ s.params.maxBlockSize → ∃ ch : List Byte, readFrom s.ibuf k.toNat 128 ch ∧
      ∃ v n, exec (.pgChunk k) s = .next (done { s with
          acc := chunkAcc s.rom s.params ch s.pgstr, pgcnt := 128, result := v, draws := n }) ∧
        (s.pgstr = 4 → v = (chunkAcc s.rom s.params ch 4).c0 ++ (chunkAcc s.rom s.params ch 4).c1
          ++ (chunkAcc s.rom s.params ch 4).c2 ++ (chunkAcc s.rom s.params ch 4).c3) ∧
        (s.pgstr = 3 → v = 0#8 ++ (chunkAcc s.rom s.params ch 3).c0
          ++ (chunkAcc s.rom s.params ch 3).c1 ++ (chunkAcc s.rom s.params ch 3).c2))) ∧
  (∀ w : Word, opcode w = 0x13 → decode w = .ok (.pgChunk (w.extractLsb' 0 24)))

/-- R127 to R129: feeding a chunk byte by byte and reading it out leaves what PG_CHUNK leaves. -/
def Obligations.FeedingBytesAgreesWithPgChunk : Prop :=
  ∀ (s : State) (k : BitVec 24) (ch : List Byte), s.Inv → k.toNat + 128 ≤ s.params.maxBlockSize →
    ch.length = 128 → holds s.ibuf k.toNat ch →
    ∃ t u, runCommands (.pgClr s.pgstr :: (ch.map Instr.pgByte ++ [.pgPar])) s = some t ∧
      exec (.pgChunk k) s = .next u ∧ u = { t with draws := u.draws }

/-- R124: the accumulator after a chunk is the remainder of D(x)·x^n modulo the generator polynomial:
there is a quotient of 128 coefficients, and the remainder has degree below n. -/
def Obligations.ChunkAccIsTheRemainder : Prop :=
  ∀ (s : State) (str : BitVec 4) (ch : List Byte), s.Inv → (str = 3 ∨ str = 4) → ch.length = 128 →
    ∃ q : List Byte, q.length = 128 ∧ ∀ i,
      shiftedDataCoeff ch str.toNat i
        = productCoeff s.rom q (generator s.params str) i
          ^^^ (remainderCoeffs (chunkAcc s.rom s.params ch str) str).getD i 0

/-- R130: the five laws of chunk parity. -/
def Obligations.ChunkParityLaws : Prop :=
  (∀ (s s' t t' : State) (k k' : BitVec 24) (ch : List Byte), ch.length = 128 →
    s.rom = s'.rom → s.params = s'.params → s.pgstr = s'.pgstr →
    holds s.ibuf k.toNat ch → holds s'.ibuf k'.toNat ch →
    k.toNat + 128 ≤ s.params.maxBlockSize → k'.toNat + 128 ≤ s.params.maxBlockSize →
    exec (.pgChunk k) s = .next t → exec (.pgChunk k') s' = .next t' →
    t.result = t'.result ∧ t.acc = t'.acc) ∧
  (∀ s : State, s.Inv → ∀ str : BitVec 4, (str = 3 ∨ str = 4) →
    chunkParity s.rom s.params (List.replicate 128 0) str = List.replicate str.toNat 0 ∧
    (∀ ch ch' : List Byte, ch.length = 128 → ch'.length = 128 →
      chunkParity s.rom s.params (List.zipWith (· ^^^ ·) ch ch') str
        = List.zipWith (· ^^^ ·) (chunkParity s.rom s.params ch str)
            (chunkParity s.rom s.params ch' str)) ∧
    (∀ v : Byte, chunkParity s.rom s.params (List.replicate 127 0 ++ [v]) str
      = (((generator s.params str).take str.toNat).reverse).map (fun g => gfMul s.rom v g)) ∧
    (∀ (acc : Cells) (d : Byte), (pgStep s.rom s.params acc d 3).c3 = acc.c3))

/-! ### Layout Assembler -/

/-- R150, R151, R40: which mode or error each CFG resolves to, and what MODE shows. -/
def Obligations.ModeResolution : Prop :=
  ∀ cfg : Word,
    (cfg.extractLsb' 0 4 = 3#4 →
      resolve cfg = .ok .ecc3 ∧ modeWord cfg = 0x00000103) ∧
    (cfg.extractLsb' 0 4 ≠ 0#4 → cfg.extractLsb' 0 4 ≠ 3#4 → cfg.extractLsb' 0 4 ≠ 4#4 →
      resolve cfg = .error .cfgBadStrength ∧ modeWord cfg = 0x00005000) ∧
    (cfg.extractLsb' 0 4 = 0#4 ∨ cfg.extractLsb' 0 4 = 4#4 →
      (cfg.getLsbD 4 = true → cfg.getLsbD 5 = true →
        resolve cfg = .error .cfgFillConflict ∧ modeWord cfg = 0x00009000) ∧
      (cfg.getLsbD 4 = true → cfg.getLsbD 5 = false →
        resolve cfg = .ok .zero ∧ modeWord cfg = 0x00000100) ∧
      (cfg.getLsbD 4 = false → cfg.getLsbD 5 = true →
        resolve cfg = .ok .ones ∧ modeWord cfg = 0x00000101)) ∧
    (cfg.extractLsb' 0 4 = 4#4 → cfg.getLsbD 4 = false → cfg.getLsbD 5 = false →
      resolve cfg = .ok .ecc4 ∧ modeWord cfg = 0x00000102) ∧
    (cfg.extractLsb' 0 4 = 0#4 → cfg.getLsbD 4 = false → cfg.getLsbD 5 = false →
      resolve cfg = .error .cfgNoMode ∧ modeWord cfg = 0x00008000)

/-- R152, R201, R202: the first configuration error in the order of the rule ends either assembler
command and writes nothing else; a configuration with none passes as (P, B, mode). -/
def Obligations.ConfigurationErrorsInOrder : Prop :=
  ∀ (s : State) (i : Instr), (i = .asmBlock ∨ ∃ k, i = .asmPage k) →
    (s.blockSize.toNat = 0 → exec i s = .next (failed s 2)) ∧
    (s.blockSize.toNat ≠ 0 →
      (s.pageSize.toNat = 0 → exec i s = .next (failed s 3)) ∧
      (s.pageSize.toNat ≠ 0 →
        (s.pageSize.toNat % 32 ≠ 0 → exec i s = .next (failed s 4)) ∧
        (s.pageSize.toNat % 32 = 0 →
          (resolve s.cfg = .error .cfgBadStrength → exec i s = .next (failed s 5)) ∧
          (resolve s.cfg ≠ .error .cfgBadStrength →
            (s.params.maxBlockSize < s.blockSize.toNat → exec i s = .next (failed s 6)) ∧
            (s.blockSize.toNat ≤ s.params.maxBlockSize →
              (s.blockSize.toNat % s.pageSize.toNat ≠ 0 → exec i s = .next (failed s 7)) ∧
              (s.blockSize.toNat % s.pageSize.toNat = 0 →
                (resolve s.cfg = .error .cfgFillConflict → exec i s = .next (failed s 9)) ∧
                (resolve s.cfg = .error .cfgNoMode → exec i s = .next (failed s 8)) ∧
                (∀ m, resolve s.cfg = .ok m →
                  ((m = .ecc3 ∨ m = .ecc4) → s.pageSize.toNat % 128 ≠ 0 →
                    exec i s = .next (failed s 10)) ∧
                  (((m = .ecc3 ∨ m = .ecc4) → s.pageSize.toNat % 128 = 0) →
                    checkCfg s = .ok ⟨s.pageSize.toNat, s.blockSize.toNat, m⟩))))))))

/-- R153, R154, R8, R45: the sizes and offsets of a configuration that passes the check. -/
def Obligations.OutputSizes : Prop :=
  ∀ (s : State) (l : Layout), s.Inv → checkCfg s = .ok l →
    0 < l.pages ∧ l.block = l.pages * l.page ∧ l.page = 32 * l.oob ∧
    (l.mode.isEcc = true → l.page = 128 * l.chunks ∧ l.oob = 4 * l.chunks) ∧
    l.outLen = l.pages * (l.page + l.oob) ∧ l.outLen = l.block + l.block / 32 ∧
    l.outLen ≤ s.params.maxBlockSize + s.params.maxBlockSize / 32 ∧
    (outlenWord s.blockSize).toNat = l.outLen ∧
    ∀ i, l.rawAt i = i * l.page ∧ l.outAt i = i * (l.page + l.oob) ∧
      l.oobAt i = i * (l.page + l.oob) + l.page ∧ l.oobAt i = (i + 1) * l.page + i * l.oob

/-- R155, R156, R157: ASM_PAGE lays out its page and writes no other OBUF byte, or ends with code 11
when the block has no such page. -/
def Obligations.AsmPageLaysOutItsPage : Prop :=
  ∀ (s : State) (l : Layout) (k : BitVec 24), checkCfg s = .ok l →
    (l.block / l.page ≤ k.toNat → exec (.asmPage k) s = .next (failed s 11)) ∧
    (k.toNat < l.block / l.page → ∃ t, exec (.asmPage k) s = .next t ∧ onlyObufFrom s t ∧
      pageLaidOut s t l k.toNat ∧
      ∀ a, (a < k.toNat * (l.page + l.page / 32) ∨
          (k.toNat + 1) * (l.page + l.page / 32) ≤ a) →
        t.obuf.byteAt a = s.obuf.byteAt a)

/-- R66, R155 to R158, R161, R162: ASM_BLOCK lays out every page of the block in order, writes every
byte below OUT and none at OUT or above. -/
def Obligations.AsmBlockLaysOutTheBlock : Prop :=
  ∀ (s : State) (l : Layout), checkCfg s = .ok l →
    ∃ t, exec .asmBlock s = .next t ∧ onlyObufFrom s t ∧
      (∀ i, i < l.block / l.page → pageLaidOut s t l i) ∧
      (∀ a, a < l.block / l.page * (l.page + l.page / 32) → ∃ b, t.obuf.byteAt a = some b) ∧
      ∀ a, l.block / l.page * (l.page + l.page / 32) ≤ a → t.obuf.byteAt a = s.obuf.byteAt a

/-- R160: ASM_PAGE for every page, in any order, gives the OBUF that ASM_BLOCK gives. -/
def Obligations.PagesInAnyOrderGiveTheBlock : Prop :=
  ∀ (s : State) (l : Layout) (order : List Nat), s.Inv → checkCfg s = .ok l →
    allWritten s.ibuf l.block → order.Perm (List.range (l.block / l.page)) →
    ∃ t u, runCommands (order.map (fun i => .asmPage (BitVec.ofNat 24 i))) s = some t ∧
      exec .asmBlock s = .next u ∧ t.obuf = u.obuf

/-- R162: the output block depends on IBUF[0..B-1] and the configuration alone. -/
def Obligations.AsmBlockIsDeterministic : Prop :=
  ∀ (s s' t t' : State) (l : Layout), checkCfg s = .ok l →
    s'.cfg = s.cfg → s'.pageSize = s.pageSize → s'.blockSize = s.blockSize →
    s'.params = s.params → s'.rom = s.rom → allWritten s.ibuf l.block →
    (∀ a, a < l.block → s'.ibuf.byteAt a = s.ibuf.byteAt a) →
    exec .asmBlock s = .next t → exec .asmBlock s' = .next t' →
    ∀ a, a < l.outLen → t'.obuf.byteAt a = t.obuf.byteAt a

/-- R29: the private accumulator is never observable: changing it changes nothing else in any step,
and no refusal. -/
def Obligations.PrivateAccumulatorIsUnobservable : Prop :=
  ∀ (s : State) (x : Cells),
    (∀ t, step s = .next t → ∃ y, step { s with asmAcc := x } = .next { t with asmAcc := y }) ∧
    (∀ r, step s = .refused r → step { s with asmAcc := x } = .refused r)

/-! ### Frames and errors -/

/-- R22, R26 to R29, R37, R41, R42, R76: what a command leaves unchanged, whatever its outcome. -/
def Obligations.CommandFrame : Prop :=
  ∀ (i : Instr) (s t : State), exec i s = .next t →
    (t.params = s.params ∧ t.rom = s.rom ∧ t.ibuf = s.ibuf ∧ t.cfg = s.cfg ∧
      t.pageSize = s.pageSize ∧ t.blockSize = s.blockSize ∧ t.resetLine = s.resetLine ∧
      t.delay = s.delay ∧ t.hostTodo = s.hostTodo ∧ t.hostGot = s.hostGot) ∧
    ((∀ str, i ≠ .pgClr str) → t.pgstr = s.pgstr) ∧
    ((∀ str, i ≠ .pgClr str) → (∀ d, i ≠ .pgByte d) → (∀ k, i ≠ .pgChunk k) →
      t.acc = s.acc ∧ t.pgcnt = s.pgcnt) ∧
    ((i = .nop ∨ (∃ str, i = .pgClr str) ∨ (∃ d, i = .pgByte d) ∨ (∃ k, i = .asmPage k) ∨
      i = .asmBlock) → t.result = s.result) ∧
    ((∀ k, i ≠ .asmPage k) → i ≠ .asmBlock →
      t.asmAcc = s.asmAcc ∧ ∀ a, t.obuf.byteAt a = s.obuf.byteAt a)

/-- R76: no command reads OBUF. With any other OBUF `m` it does the same to everything else, and each
byte of OBUF afterwards is the byte it also leaves otherwise, or one it stored to in neither run. -/
def Obligations.EngineNeverReadsObuf : Prop :=
  ∀ (i : Instr) (s t : State) (m : Memory), exec i s = .next t →
    ∃ m', exec i { s with obuf := m } = .next { t with obuf := m' } ∧
      ∀ a, m'.byteAt a = t.obuf.byteAt a ∨
        (m'.byteAt a = m.byteAt a ∧ t.obuf.byteAt a = s.obuf.byteAt a)

/-- R201: a command that ends in an error writes STATUS and nothing else. -/
def Obligations.ErrorsWriteOnlyStatus : Prop :=
  ∀ (i : Instr) (s t : State), exec i s = .next t → t.err = true → t = failed s t.errcode

/-- R200: the error codes each command can report; no other outcome sets ERR. -/
def Obligations.ErrorCodesByCommand : Prop :=
  ∀ (i : Instr) (s t : State), exec i s = .next t →
    match i with
    | .nop | .gfAdd _ _ | .gfMul _ _ | .gfLog _ | .gfAlog _ => t.err = false ∧ t.errcode = 0
    | .pgClr _ => t.errcode = 0 ∨ t.errcode = 5
    | .pgByte _ => t.errcode = 0 ∨ t.errcode = 12
    | .pgPar => t.errcode = 0 ∨ t.errcode = 13
    | .pgChunk _ => t.errcode = 0 ∨ t.errcode = 11
    | .asmPage _ => t.errcode = 0 ∨ (2 ≤ t.errcode.toNat ∧ t.errcode.toNat ≤ 11)
    | .asmBlock => t.errcode = 0 ∨ (2 ≤ t.errcode.toNat ∧ t.errcode.toNat ≤ 10)

/-- R204: an error report is cleared by the next accepted command and by reset, and by nothing else:
a CMD write while idle is accepted and clears it, asserting reset clears it, and a step that does not
keep it is one of these two. -/
def Obligations.ErrorStaysUntilNextCommandOrReset : Prop :=
  (∀ (s : State) (m : HostMove), s.resetLine = false → s.busy = false → writesCmd s.params m →
    ∃ t, hostMove m s = .next t ∧ t.pending.isSome = true ∧ t.err = false ∧ t.errcode = 0) ∧
  (∀ s : State, ∃ t, hostMove .assertReset s = .next t ∧ t.resetLine = true ∧ t.err = false ∧
    t.errcode = 0) ∧
  (∀ s t : State, s.Inv → step s = .next t → s.err = true →
    (t.err = true ∧ t.errcode = s.errcode) ∨
    (∃ m rest, s.hostTodo = m :: rest ∧ t.err = false ∧ t.errcode = 0 ∧
      ((m = .assertReset ∧ t.resetLine = true) ∨
        (writesCmd s.params m ∧ t.pending.isSome = true))))

/-! ### Host accesses -/

/-- R36, R38, R39, R40, R45, R64: what a read of each register returns when no command is pending; it
changes nothing in the block (R69). -/
def Obligations.RegisterReadsWhenIdle : Prop :=
  ∀ s : State, s.resetLine = false → s.busy = false →
    hostMove (rd .cfg) s = .next (returned s s.cfg) ∧
    hostMove (rd .pageSize) s = .next (returned s s.pageSize) ∧
    hostMove (rd .blockSize) s = .next (returned s s.blockSize) ∧
    hostMove (rd .cmd) s = .next (returned s 0) ∧
    hostMove (rd .status) s
      = .next (returned s (0#24 ++ s.errcode ++ 0#2 ++ BitVec.ofBool s.err ++ 0#1)) ∧
    hostMove (rd .result) s = .next (returned s s.result) ∧
    hostMove (rd .accv) s = .next (returned s (s.acc.c3 ++ s.acc.c2 ++ s.acc.c1 ++ s.acc.c0)) ∧
    hostMove (rd .pgstate) s = .next (returned s (0#20 ++ s.pgstr ++ s.pgcnt)) ∧
    hostMove (rd .mode) s = .next (returned s (modeWord s.cfg)) ∧
    hostMove (rd .outlen) s
      = .next (returned s (BitVec.ofNat 32 (s.blockSize.toNat + s.blockSize.toNat / 32)))

/-- R32 to R37, R64: what a write to each register does when no command is pending; read-only
registers ignore it, and CFG stores bits 5:0 alone. -/
def Obligations.RegisterWritesWhenIdle : Prop :=
  ∀ (s : State) (v : Word), s.resetLine = false → s.busy = false →
    (∃ c : Word, hostMove (wr .cfg v) s = .next { s with cfg := c } ∧
      c.extractLsb' 0 6 = v.extractLsb' 0 6 ∧ c.extractLsb' 6 26 = 0#26) ∧
    hostMove (wr .pageSize v) s = .next { s with pageSize := v } ∧
    hostMove (wr .blockSize v) s = .next { s with blockSize := v } ∧
    hostMove (wr .status v) s = .next s ∧
    hostMove (wr .result v) s = .next s ∧
    hostMove (wr .accv v) s = .next s ∧
    hostMove (wr .pgstate v) s = .next s ∧
    hostMove (wr .mode v) s = .next s ∧
    hostMove (wr .outlen v) s = .next s

/-- R234, R64: reads while BUSY: STATUS is exactly 1, CMD reads 0, the configuration, its views and IBUF
are exact, and RESULT, ACCV, PGSTATE and OBUF, at either width, answer some value, about which nothing
is said. The zero-extension of an 8-bit read is the model's choice (log 13), and so is the count of
free values in `returned` (log 5). -/
def Obligations.ReadsWhileBusy : Prop :=
  ∀ s : State, s.Inv → s.busy = true →
    hostMove (rd .status) s = .next (returned s 1) ∧
    hostMove (rd .cmd) s = .next (returned s 0) ∧
    hostMove (rd .cfg) s = .next (returned s s.cfg) ∧
    hostMove (rd .pageSize) s = .next (returned s s.pageSize) ∧
    hostMove (rd .blockSize) s = .next (returned s s.blockSize) ∧
    hostMove (rd .mode) s = .next (returned s (modeWord s.cfg)) ∧
    hostMove (rd .outlen) s = .next (returned s (outlenWord s.blockSize)) ∧
    (∀ a b, a < s.params.maxBlockSize → s.ibuf.byteAt a = some b →
      hostMove (.access (.read .ibuf a 8)) s = .next (returned s (zext32 b))) ∧
    (∀ (a : Nat) (b0 b1 b2 b3 : Byte), a % 4 = 0 → a + 4 ≤ s.params.maxBlockSize →
      holds s.ibuf a [b0, b1, b2, b3] →
      hostMove (.access (.read .ibuf a 32)) s = .next (returned s (b3 ++ b2 ++ b1 ++ b0))) ∧
    (∃ v, hostMove (rd .result) s = .next (returned s v)) ∧
    (∃ v, hostMove (rd .accv) s = .next (returned s v)) ∧
    (∃ v, hostMove (rd .pgstate) s = .next (returned s v)) ∧
    (∀ a, a < obufSize s.params → ∃ v, hostMove (rd8 a) s = .next (returned s v)) ∧
    (∀ a, a % 4 = 0 → a + 4 ≤ obufSize s.params → ∃ v, hostMove (rd32 a) s = .next (returned s v))

/-- R233: the write hazards while BUSY are refused, and writes to read-only registers stay ignored. -/
def Obligations.WriteHazardsWhileBusy : Prop :=
  ∀ (s : State) (v : Word), s.busy = true → s.resetLine = false →
    (∀ a : Access, hazardousWrite a → ∃ r, hostMove (.access a) s = .refused r) ∧
    hostMove (wr .status v) s = .next s ∧
    hostMove (wr .result v) s = .next s ∧
    hostMove (wr .accv v) s = .next s ∧
    hostMove (wr .pgstate v) s = .next s ∧
    hostMove (wr .mode v) s = .next s ∧
    hostMove (wr .outlen v) s = .next s

/-- R61, R62, R63, R71, R230: exactly the accesses outside the interface, the write hazards, and the
accesses in reset have no step; every other access is performed. -/
def Obligations.RefusedAccesses : Prop :=
  ∀ (s : State) (a : Access),
    ((∃ r, hostMove (.access a) s = .refused r) ↔
      (s.resetLine = true ∨ badShape s.params a ∨ (s.busy = true ∧ hazardousWrite a))) ∧
    ((∃ t, hostMove (.access a) s = .next t) ↔
      ¬ (s.resetLine = true ∨ badShape s.params a ∨ (s.busy = true ∧ hazardousWrite a)))

/-- R65: a 32-bit buffer write stores four bytes in little-endian order and nothing else, an 8-bit one
exactly one byte, in IBUF and in OBUF; a read of written bytes returns them in that order. That an 8-bit
read is zero-extended to the bus word, and an 8-bit write takes bits 7:0, is the model's choice
(log 13); the count of free values in `returned` is log 5. -/
def Obligations.BufferByteOrder : Prop :=
  ∀ (s : State) (off : Nat) (v : Word), s.resetLine = false → s.busy = false →
    (off % 4 = 0 → off + 4 ≤ s.params.maxBlockSize →
      ∃ t, hostMove (wr32 off v) s = .next t ∧ t = { s with ibuf := t.ibuf } ∧
        (∀ j, j < 4 → t.ibuf.byteAt (off + j) = some (v.extractLsb' (8 * j) 8)) ∧
        (∀ a, a < off ∨ off + 4 ≤ a → t.ibuf.byteAt a = s.ibuf.byteAt a) ∧
        hostMove (.access (.read .ibuf off 32)) t = .next (returned t v) ∧
        (∀ j, j < 4 → hostMove (.access (.read .ibuf (off + j) 8)) t
          = .next (returned t (zext32 (v.extractLsb' (8 * j) 8))))) ∧
    (off % 4 = 0 → off + 4 ≤ obufSize s.params →
      ∃ t, hostMove (.access (.write .obuf off 32 v)) s = .next t ∧ t = { s with obuf := t.obuf } ∧
        (∀ j, j < 4 → t.obuf.byteAt (off + j) = some (v.extractLsb' (8 * j) 8)) ∧
        (∀ a, a < off ∨ off + 4 ≤ a → t.obuf.byteAt a = s.obuf.byteAt a) ∧
        hostMove (rd32 off) t = .next (returned t v) ∧
        (∀ j, j < 4 → hostMove (rd8 (off + j)) t
          = .next (returned t (zext32 (v.extractLsb' (8 * j) 8))))) ∧
    (∀ b0 b1 b2 b3 : Byte, off % 4 = 0 → off + 4 ≤ s.params.maxBlockSize →
      holds s.ibuf off [b0, b1, b2, b3] →
      hostMove (.access (.read .ibuf off 32)) s = .next (returned s (b3 ++ b2 ++ b1 ++ b0))) ∧
    (∀ b0 b1 b2 b3 : Byte, off % 4 = 0 → off + 4 ≤ obufSize s.params →
      holds s.obuf off [b0, b1, b2, b3] →
      hostMove (rd32 off) s = .next (returned s (b3 ++ b2 ++ b1 ++ b0))) ∧
    (∀ b : Byte, off < s.params.maxBlockSize → s.ibuf.byteAt off = some b →
      hostMove (.access (.read .ibuf off 8)) s = .next (returned s (zext32 b))) ∧
    (∀ b : Byte, off < obufSize s.params → s.obuf.byteAt off = some b →
      hostMove (rd8 off) s = .next (returned s (zext32 b))) ∧
    (∀ b : Byte, off < s.params.maxBlockSize →
      ∃ t, hostMove (wr8 off b) s = .next t ∧ t = { s with ibuf := t.ibuf } ∧
        t.ibuf.byteAt off = some b ∧ (∀ a, a ≠ off → t.ibuf.byteAt a = s.ibuf.byteAt a)) ∧
    (∀ b : Byte, off < obufSize s.params →
      ∃ t, hostMove (.access (.write .obuf off 8 (zext32 b))) s = .next t ∧
        t = { s with obuf := t.obuf } ∧ t.obuf.byteAt off = some b ∧
        (∀ a, a ≠ off → t.obuf.byteAt a = s.obuf.byteAt a))

/-- R69: reads change nothing in the block, a write but a CMD write changes nothing but the register or
the bytes it writes to, and every such access may be repeated without further effect on the block. -/
def Obligations.OnlyCmdWritesHaveSideEffects : Prop :=
  ∀ (s t : State) (a : Access), hostMove (.access a) s = .next t → ¬ writesCmd s.params (.access a) →
    (∀ sp off w, a = .read sp off w → t = { s with draws := t.draws, hostGot := t.hostGot }) ∧
    (∀ sp off w v, a = .write sp off w v → writesOnly sp off w s t) ∧
    ∃ u, hostMove (.access a) t = .next u ∧ sameBlock t u

/-- R70: a platform address that lies in exactly one window reaches that space at the offset from its
base; one that lies in no window reaches nothing. (That an address in several windows is refused too
is the model's choice, log 12, and is not stated here.) -/
def Obligations.PlatformAddressesReachTheSpaces : Prop :=
  ∀ (s : State) (addr w : Nat) (v : Word),
    (∀ sp, spaceBase s.params sp ≤ addr → addr < spaceBase s.params sp + spaceSize s.params sp →
      (∀ sp', sp' ≠ sp → ¬ (spaceBase s.params sp' ≤ addr ∧
        addr < spaceBase s.params sp' + spaceSize s.params sp')) →
      hostMove (.readAt addr w) s
        = hostMove (.access (.read sp (addr - spaceBase s.params sp) w)) s ∧
      hostMove (.writeAt addr w v) s
        = hostMove (.access (.write sp (addr - spaceBase s.params sp) w v)) s) ∧
    ((∀ sp, ¬ (spaceBase s.params sp ≤ addr ∧
        addr < spaceBase s.params sp + spaceSize s.params sp)) →
      hostMove (.readAt addr w) s = .refused .hostAddress ∧
      hostMove (.writeAt addr w v) s = .refused .hostAddress)

/-! ### Reset, invariant, progress -/

/-- R43: the state after reset, as the fields and as the registers show it. The private accumulator,
which R43 calls unobservable, and the model's own fields are left out. -/
def Obligations.ResetValues : Prop :=
  State.reset.rom = romOf State.reset.params ∧
  State.reset.acc = ⟨0, 0, 0, 0⟩ ∧ State.reset.pgcnt = 0 ∧ State.reset.pgstr = 4 ∧
  State.reset.pending = none ∧ State.reset.busy = false ∧
  State.reset.cfg = 0 ∧ State.reset.pageSize = 0 ∧ State.reset.blockSize = 0 ∧
  State.reset.err = false ∧ State.reset.errcode = 0 ∧ State.reset.result = 0 ∧
  (∀ a, State.reset.ibuf.byteAt a = none ∧ State.reset.obuf.byteAt a = none) ∧
  State.reset.readReg .status = 0x00000000 ∧ State.reset.readReg .accv = 0x00000000 ∧
  State.reset.readReg .pgstate = 0x00000400 ∧ State.reset.readReg .mode = 0x00008000 ∧
  State.reset.readReg .outlen = 0x00000000

/-- R230, R231: asserting reset, in any state, gives every piece of the block's state its reset value,
drops a pending command and leaves the ROMs and the parameters; while it is asserted every host access
is refused; releasing it leaves the block idle. -/
def Obligations.ResetInput : Prop :=
  ∀ s : State,
    (∃ t, hostMove .assertReset s = .next t ∧
      t.acc = State.reset.acc ∧ t.pgcnt = State.reset.pgcnt ∧ t.pgstr = State.reset.pgstr ∧
      t.pending = none ∧ t.busy = false ∧ t.cfg = State.reset.cfg ∧
      t.pageSize = State.reset.pageSize ∧ t.blockSize = State.reset.blockSize ∧
      t.err = false ∧ t.errcode = 0 ∧ t.result = State.reset.result ∧
      (∀ a, t.ibuf.byteAt a = none ∧ t.obuf.byteAt a = none) ∧
      t.rom = s.rom ∧ t.params = s.params ∧ t.resetLine = true ∧
      (∀ a : Access, ∃ r, hostMove (.access a) t = .refused r) ∧
      ∃ u, hostMove .releaseReset t = .next u ∧ u = { t with resetLine := false })

/-- The invariant holds after reset. -/
def Obligations.ResetSatisfiesTheInvariant : Prop := State.reset.Inv

/-- R20 to R22, R27, R28, R30, R32, R36, R41, R42, R121, R200, R230: every step, of the HOST or of the
ENGINE, keeps the invariant. -/
def Obligations.EveryStepKeepsTheInvariant : Prop :=
  ∀ s t : State, s.Inv → step s = .next t → t.Inv

/-- R22: no command or host access, and no reset, changes the ROMs or the parameters. -/
def Obligations.RomsNeverChange : Prop :=
  ∀ s t : State, step s = .next t → t.rom = s.rom ∧ t.params = s.params

/-- R89, R241: `WAIT` terminates. After the free number of polls, the ENGINE step and one more poll,
the HOST is past it, the block is idle, and the last value read is the STATUS of the completed
command. The number of polls is the model's countdown (log 9), WAIT its one move (log 10). -/
def Obligations.WaitTerminates : Prop :=
  ∀ (s : State) (w : Word) (rest : List HostMove), s.resetLine = false → s.busy = true →
    s.pending = some w → s.hostTodo = .wait :: rest →
    ∃ t, Host.Core.run Sys2Proof.core (s.delay + 2) s = .next t ∧ t.hostTodo = rest ∧
      t.busy = false ∧ t.pending = none ∧
      t.hostGot.head? = some (0#24 ++ t.errcode ++ 0#2 ++ BitVec.ofBool t.err ++ 0#1)

/-- R89, R181, R182, R72, R241: `ISSUE cmd` from an idle block runs exactly that command: after
finitely many steps the HOST is past it and the block's state is what `exec` of the command leaves
(with some of the free values already used). The count of free values (log 5), the countdown of HOST
steps (log 9) and WAIT as one move of the HOST's list (log 6, log 10) are the model's. -/
def Obligations.IssueRunsTheCommand : Prop :=
  ∀ (s : State) (i : Instr) (rest : List HostMove), s.resetLine = false → s.busy = false →
    s.pending = none → s.hostTodo = issue i ++ rest →
    ∃ n t d u, Host.Core.run Sys2Proof.core n s = .next t ∧ t.hostTodo = rest ∧
      exec i { s with draws := d } = .next u ∧ sameBlock u t
end

