-- ==== Sys2Proof/Laws/Memory.lean ====
section
/-! SUPPORT. The laws of the buffers: a read after a write, and that every operation keeps the canonical
form. -/

namespace Sys2Proof.Machine

@[simp] theorem Memory.byteAt_nil (a : Nat) : Memory.byteAt [] a = none := rfl

@[simp] theorem cellsFrom_nil (off : Nat) : cellsFrom off [] = [] := rfl

@[simp] theorem cellsFrom_cons (off : Nat) (b : Byte) (bs : List Byte) :
    cellsFrom off (b :: bs) = (off, b) :: cellsFrom (off + 1) bs := rfl

theorem mem_cellsFrom {off : Nat} {bs : List Byte} {c : Host.Cell} (h : c ∈ cellsFrom off bs) :
    off ≤ c.1 ∧ c.1 < off + bs.length := by
  induction bs generalizing off with
  | nil => simp at h
  | cons b bs ih =>
    simp only [cellsFrom_cons, List.mem_cons] at h
    rcases h with rfl | h
    · simp
    · have := ih h
      simp only [List.length_cons]
      omega

/-- The cells of a written range hold its bytes, and no other offset. -/
theorem byteAt_cellsFrom (off : Nat) (bs : List Byte) (a : Nat) :
    Memory.byteAt (cellsFrom off bs) a = if off ≤ a then bs[a - off]? else none := by
  induction bs generalizing off with
  | nil => simp
  | cons b bs ih =>
    by_cases h : off = a
    · simp [Memory.byteAt, h]
    · have e : Memory.byteAt (cellsFrom off (b :: bs)) a
          = Memory.byteAt (cellsFrom (off + 1) bs) a := by
        simp [Memory.byteAt, h]
      rw [e, ih]
      by_cases h1 : off + 1 ≤ a
      · have h2 : off ≤ a := by omega
        have h3 : a - off = (a - (off + 1)) + 1 := by omega
        simp [h1, h2, h3]
      · have h2 : ¬ off ≤ a := by omega
        simp [h1, h2]

theorem byteAt_append (m₁ m₂ : Memory) (a : Nat) :
    Memory.byteAt (m₁ ++ m₂) a = (Memory.byteAt m₁ a).or (Memory.byteAt m₂ a) := by
  simp only [Memory.byteAt, List.find?_append]
  cases List.find? (fun c => c.1 == a) m₁ <;> simp

/-- Keeping the cells whose offsets satisfy `q` keeps exactly the bytes at those offsets. -/
theorem byteAt_filter (m : Memory) (q : Nat → Bool) (a : Nat) :
    Memory.byteAt (m.filter (fun c => q c.1)) a = if q a then Memory.byteAt m a else none := by
  induction m with
  | nil => simp
  | cons c m ih =>
    have hc : ∀ l : Memory, Memory.byteAt (c :: l) a
        = if c.1 = a then some c.2 else Memory.byteAt l a := by
      intro l
      by_cases h : c.1 = a <;> simp [Memory.byteAt, h]
    by_cases hq : q c.1 = true
    · rw [List.filter_cons_of_pos (by simpa using hq), hc, hc, ih]
      by_cases h : c.1 = a
      · subst h; simp [hq]
      · simp [h]
    · rw [List.filter_cons_of_neg (by simpa using hq), hc, ih]
      by_cases h : c.1 = a
      · subst h; simp [hq]
      · simp [h]

/-- A read after a write: inside the written range the written byte, elsewhere what was there. -/
theorem byteAt_store (m : Memory) (off : Nat) (bs : List Byte) (a : Nat) :
    (m.store off bs).byteAt a
      = if off ≤ a ∧ a < off + bs.length then bs[a - off]? else m.byteAt a := by
  have e : m.store off bs
      = m.filter (fun c => (fun x => decide (x < off)) c.1) ++ cellsFrom off bs
        ++ m.filter (fun c => (fun x => decide (off + bs.length ≤ x)) c.1) := rfl
  have lo := byteAt_filter m (fun x => decide (x < off)) a
  have hi := byteAt_filter m (fun x => decide (off + bs.length ≤ x)) a
  rw [e, byteAt_append, byteAt_append, byteAt_cellsFrom]
  simp only at lo hi ⊢
  rw [lo, hi]
  by_cases h1 : off ≤ a
  · by_cases h2 : a < off + bs.length
    · have h3 : ¬ a < off := by omega
      have h4 : ¬ off + bs.length ≤ a := by omega
      have h5 : decide (off + bs.length ≤ a) = false := decide_eq_false h4
      simp [h1, h2, h3, h5]
    · have h3 : ¬ a < off := by omega
      have h4 : off + bs.length ≤ a := by omega
      have h5 : bs[a - off]? = none := List.getElem?_eq_none (by omega)
      simp [h1, h2, h3, h4, h5]
  · have h3 : a < off := by omega
    have h5 : decide (off + bs.length ≤ a) = false := decide_eq_false (by omega)
    simp [h1, h3, h5]

theorem byteAt_store_of_lt {m : Memory} {off : Nat} {bs : List Byte} {a : Nat} (h : a < off) :
    (m.store off bs).byteAt a = m.byteAt a := by
  rw [byteAt_store, if_neg (by omega)]

theorem byteAt_store_of_ge {m : Memory} {off : Nat} {bs : List Byte} {a : Nat}
    (h : off + bs.length ≤ a) : (m.store off bs).byteAt a = m.byteAt a := by
  rw [byteAt_store, if_neg (by omega)]

theorem byteAt_store_inside {m : Memory} {off : Nat} {bs : List Byte} {j : Nat}
    (h : j < bs.length) : (m.store off bs).byteAt (off + j) = some bs[j] := by
  rw [byteAt_store, if_pos (by omega)]
  simp [h]

theorem Memory.wf_iff (m : Memory) : m.wf = true ↔ m.Pairwise (fun x y => x.1 < y.1) := by
  simp [Memory.wf]

@[simp] theorem Memory.wf_nil : Memory.wf [] = true := rfl

theorem pairwise_cellsFrom (off : Nat) (bs : List Byte) :
    (cellsFrom off bs).Pairwise (fun x y => x.1 < y.1) := by
  induction bs generalizing off with
  | nil => simp
  | cons b bs ih =>
    rw [cellsFrom_cons, List.pairwise_cons]
    exact ⟨fun c hc => by have := mem_cellsFrom hc; simp only; omega, ih _⟩

/-- Every write keeps the canonical form. -/
theorem Memory.wf_store {m : Memory} (h : m.wf = true) (off : Nat) (bs : List Byte) :
    (m.store off bs).wf = true := by
  rw [Memory.wf_iff] at *
  unfold Memory.store
  rw [List.pairwise_append, List.pairwise_append]
  refine ⟨⟨h.filter _, pairwise_cellsFrom off bs, ?_⟩, h.filter _, ?_⟩
  · intro x hx y hy
    have := mem_cellsFrom hy
    simp only [List.mem_filter, decide_eq_true_eq] at hx
    omega
  · intro x hx y hy
    simp only [List.mem_filter, decide_eq_true_eq] at hy
    rcases List.mem_append.1 hx with hx | hx
    · simp only [List.mem_filter, decide_eq_true_eq] at hx
      omega
    · have := mem_cellsFrom hx
      omega

@[simp] theorem Memory.within_nil (n : Nat) : Memory.within [] n = true := rfl

/-- A write inside the space keeps every listed offset inside it. -/
theorem Memory.within_store {m : Memory} {n : Nat} (h : m.within n = true) {off : Nat}
    {bs : List Byte} (hb : off + bs.length ≤ n) : (m.store off bs).within n = true := by
  simp only [Memory.within, List.all_eq_true, decide_eq_true_eq] at *
  intro c hc
  unfold Memory.store at hc
  rcases List.mem_append.1 hc with hc | hc
  · rcases List.mem_append.1 hc with hc | hc
    · exact h c (List.mem_filter.1 hc).1
    · have := mem_cellsFrom hc
      omega
  · exact h c (List.mem_filter.1 hc).1

@[simp] theorem Memory.readBytes_length (m : Memory) (off n d : Nat) :
    (m.readBytes off n d).length = n := by
  simp [Memory.readBytes]

@[simp] theorem Memory.readBytes_getElem (m : Memory) (off n d j : Nat)
    (h : j < (m.readBytes off n d).length) :
    (m.readBytes off n d)[j] = m.readByte (off + j) (d + j) := by
  simp [Memory.readBytes]

theorem Memory.readByte_written {m : Memory} {a : Nat} {b : Byte} (h : m.byteAt a = some b)
    (d : Nat) : m.readByte a d = b := by
  simp [Memory.readByte, h]

/-- Reading a range that was all written gives its bytes, whatever the free values. -/
theorem Memory.readBytes_written {m : Memory} {off n : Nat} {bs : List Byte} (hn : bs.length = n)
    (h : ∀ j, (hj : j < bs.length) → m.byteAt (off + j) = some bs[j]) (d : Nat) :
    m.readBytes off n d = bs := by
  apply List.ext_getElem
  · simp [hn]
  · intro j h1 h2
    rw [Memory.readBytes_getElem, Memory.readByte_written (h j h2)]

/-- Two canonical memories with the same bytes are the same list. -/
theorem Memory.ext_of_wf {m m' : Memory} (h : m.wf = true) (h' : m'.wf = true)
    (e : ∀ a, m.byteAt a = m'.byteAt a) : m = m' := by
  have above : ∀ {x : Nat} {r : Memory}, (∀ y ∈ r, x < y.1) → ∀ a, a ≤ x → Memory.byteAt r a = none := by
    intro x r hr a ha
    simp only [Memory.byteAt, Option.map_eq_none_iff, List.find?_eq_none]
    intro y hy
    have := hr y hy
    simp
    omega
  have head : ∀ (x : Host.Cell) (r : Memory) (a : Nat),
      Memory.byteAt (x :: r) a = if x.1 = a then some x.2 else Memory.byteAt r a := by
    intro x r a
    by_cases hx : x.1 = a <;> simp [Memory.byteAt, hx]
  rw [Memory.wf_iff] at h h'
  induction m generalizing m' with
  | nil =>
    cases m' with
    | nil => rfl
    | cons c m' => have := e c.1; simp [Memory.byteAt] at this
  | cons c m ih =>
    cases m' with
    | nil => have := e c.1; simp [Memory.byteAt] at this
    | cons c' m' =>
      rw [List.pairwise_cons] at h h'
      have hcc : c = c' := by
        have e1 := e c.1
        have e2 := e c'.1
        rw [head, head] at e1 e2
        rw [if_pos rfl] at e1
        rcases Nat.lt_trichotomy c.1 c'.1 with hlt | heq | hgt
        · rw [if_neg (by omega), above h'.1 _ (by omega)] at e1; cases e1
        · rw [if_pos heq.symm] at e1
          exact Prod.ext heq (by simpa using e1)
        · rw [if_neg (by omega), if_pos rfl, above h.1 _ (by omega)] at e2; cases e2
      subst hcc
      rw [ih h.2 (m' := m') h'.2 (fun a => ?_)]
      have := e a
      rw [head, head] at this
      by_cases hx : c.1 = a
      · subst hx; rw [above h.1 _ (Nat.le_refl _), above h'.1 _ (Nat.le_refl _)]
      · simpa [hx] using this

/-- The same write again changes nothing (R69). -/
theorem Memory.store_store (m : Memory) (off : Nat) (bs : List Byte) :
    (m.store off bs).store off bs = m.store off bs := by
  have h : ∀ c ∈ cellsFrom off bs, off ≤ c.1 ∧ c.1 < off + bs.length := fun c hc => mem_cellsFrom hc
  have below : (cellsFrom off bs).filter (fun c => decide (c.1 < off)) = [] :=
    List.filter_eq_nil_iff.2 fun c hc => by have := h c hc; simp; omega
  have above : (cellsFrom off bs).filter (fun c => decide (off + bs.length ≤ c.1)) = [] :=
    List.filter_eq_nil_iff.2 fun c hc => by have := h c hc; simp; omega
  have both : m.filter (fun c => decide (c.1 < off) && decide (off + bs.length ≤ c.1)) = [] :=
    List.filter_eq_nil_iff.2 fun c _ => by simp; omega
  have both' : m.filter (fun c => decide (off + bs.length ≤ c.1) && decide (c.1 < off)) = [] :=
    List.filter_eq_nil_iff.2 fun c _ => by simp; omega
  simp [Memory.store, List.filter_append, List.filter_filter, below, above, both, both']

end Sys2Proof.Machine
end

