-- ==== Sys2Proof/Laws/State.lean ====
section
/-! SUPPORT. What each update of State leaves in each field: one lemma per field per update, so that no
later proof unfolds a record update. -/

namespace Sys2Proof.Machine

variable (s : State)

@[simp] theorem State.drew_params (n : Nat) : (s.drew n).params = s.params := rfl
@[simp] theorem State.drew_rom (n : Nat) : (s.drew n).rom = s.rom := rfl
@[simp] theorem State.drew_acc (n : Nat) : (s.drew n).acc = s.acc := rfl
@[simp] theorem State.drew_pgcnt (n : Nat) : (s.drew n).pgcnt = s.pgcnt := rfl
@[simp] theorem State.drew_pgstr (n : Nat) : (s.drew n).pgstr = s.pgstr := rfl
@[simp] theorem State.drew_asmAcc (n : Nat) : (s.drew n).asmAcc = s.asmAcc := rfl
@[simp] theorem State.drew_pending (n : Nat) : (s.drew n).pending = s.pending := rfl
@[simp] theorem State.drew_busy (n : Nat) : (s.drew n).busy = s.busy := rfl
@[simp] theorem State.drew_cfg (n : Nat) : (s.drew n).cfg = s.cfg := rfl
@[simp] theorem State.drew_pageSize (n : Nat) : (s.drew n).pageSize = s.pageSize := rfl
@[simp] theorem State.drew_blockSize (n : Nat) : (s.drew n).blockSize = s.blockSize := rfl
@[simp] theorem State.drew_err (n : Nat) : (s.drew n).err = s.err := rfl
@[simp] theorem State.drew_errcode (n : Nat) : (s.drew n).errcode = s.errcode := rfl
@[simp] theorem State.drew_result (n : Nat) : (s.drew n).result = s.result := rfl
@[simp] theorem State.drew_ibuf (n : Nat) : (s.drew n).ibuf = s.ibuf := rfl
@[simp] theorem State.drew_obuf (n : Nat) : (s.drew n).obuf = s.obuf := rfl
@[simp] theorem State.drew_resetLine (n : Nat) : (s.drew n).resetLine = s.resetLine := rfl
@[simp] theorem State.drew_delay (n : Nat) : (s.drew n).delay = s.delay := rfl
@[simp] theorem State.drew_draws (n : Nat) : (s.drew n).draws = s.draws + n := rfl
@[simp] theorem State.drew_hostTodo (n : Nat) : (s.drew n).hostTodo = s.hostTodo := rfl
@[simp] theorem State.drew_hostGot (n : Nat) : (s.drew n).hostGot = s.hostGot := rfl

@[simp] theorem State.memWrite_params (off : Nat) (bs : List Byte) : (s.memWrite off bs).params = s.params := rfl
@[simp] theorem State.memWrite_rom (off : Nat) (bs : List Byte) : (s.memWrite off bs).rom = s.rom := rfl
@[simp] theorem State.memWrite_acc (off : Nat) (bs : List Byte) : (s.memWrite off bs).acc = s.acc := rfl
@[simp] theorem State.memWrite_pgcnt (off : Nat) (bs : List Byte) : (s.memWrite off bs).pgcnt = s.pgcnt := rfl
@[simp] theorem State.memWrite_pgstr (off : Nat) (bs : List Byte) : (s.memWrite off bs).pgstr = s.pgstr := rfl
@[simp] theorem State.memWrite_asmAcc (off : Nat) (bs : List Byte) : (s.memWrite off bs).asmAcc = s.asmAcc := rfl
@[simp] theorem State.memWrite_pending (off : Nat) (bs : List Byte) : (s.memWrite off bs).pending = s.pending := rfl
@[simp] theorem State.memWrite_busy (off : Nat) (bs : List Byte) : (s.memWrite off bs).busy = s.busy := rfl
@[simp] theorem State.memWrite_cfg (off : Nat) (bs : List Byte) : (s.memWrite off bs).cfg = s.cfg := rfl
@[simp] theorem State.memWrite_pageSize (off : Nat) (bs : List Byte) : (s.memWrite off bs).pageSize = s.pageSize := rfl
@[simp] theorem State.memWrite_blockSize (off : Nat) (bs : List Byte) : (s.memWrite off bs).blockSize = s.blockSize := rfl
@[simp] theorem State.memWrite_err (off : Nat) (bs : List Byte) : (s.memWrite off bs).err = s.err := rfl
@[simp] theorem State.memWrite_errcode (off : Nat) (bs : List Byte) : (s.memWrite off bs).errcode = s.errcode := rfl
@[simp] theorem State.memWrite_result (off : Nat) (bs : List Byte) : (s.memWrite off bs).result = s.result := rfl
@[simp] theorem State.memWrite_ibuf (off : Nat) (bs : List Byte) : (s.memWrite off bs).ibuf = s.ibuf := rfl
@[simp] theorem State.memWrite_obuf (off : Nat) (bs : List Byte) : (s.memWrite off bs).obuf = s.obuf.store off bs := rfl
@[simp] theorem State.memWrite_resetLine (off : Nat) (bs : List Byte) : (s.memWrite off bs).resetLine = s.resetLine := rfl
@[simp] theorem State.memWrite_delay (off : Nat) (bs : List Byte) : (s.memWrite off bs).delay = s.delay := rfl
@[simp] theorem State.memWrite_draws (off : Nat) (bs : List Byte) : (s.memWrite off bs).draws = s.draws := rfl
@[simp] theorem State.memWrite_hostTodo (off : Nat) (bs : List Byte) : (s.memWrite off bs).hostTodo = s.hostTodo := rfl
@[simp] theorem State.memWrite_hostGot (off : Nat) (bs : List Byte) : (s.memWrite off bs).hostGot = s.hostGot := rfl

@[simp] theorem State.writeIbuf_params (off : Nat) (bs : List Byte) : (s.writeIbuf off bs).params = s.params := rfl
@[simp] theorem State.writeIbuf_rom (off : Nat) (bs : List Byte) : (s.writeIbuf off bs).rom = s.rom := rfl
@[simp] theorem State.writeIbuf_acc (off : Nat) (bs : List Byte) : (s.writeIbuf off bs).acc = s.acc := rfl
@[simp] theorem State.writeIbuf_pgcnt (off : Nat) (bs : List Byte) : (s.writeIbuf off bs).pgcnt = s.pgcnt := rfl
@[simp] theorem State.writeIbuf_pgstr (off : Nat) (bs : List Byte) : (s.writeIbuf off bs).pgstr = s.pgstr := rfl
@[simp] theorem State.writeIbuf_asmAcc (off : Nat) (bs : List Byte) : (s.writeIbuf off bs).asmAcc = s.asmAcc := rfl
@[simp] theorem State.writeIbuf_pending (off : Nat) (bs : List Byte) : (s.writeIbuf off bs).pending = s.pending := rfl
@[simp] theorem State.writeIbuf_busy (off : Nat) (bs : List Byte) : (s.writeIbuf off bs).busy = s.busy := rfl
@[simp] theorem State.writeIbuf_cfg (off : Nat) (bs : List Byte) : (s.writeIbuf off bs).cfg = s.cfg := rfl
@[simp] theorem State.writeIbuf_pageSize (off : Nat) (bs : List Byte) : (s.writeIbuf off bs).pageSize = s.pageSize := rfl
@[simp] theorem State.writeIbuf_blockSize (off : Nat) (bs : List Byte) : (s.writeIbuf off bs).blockSize = s.blockSize := rfl
@[simp] theorem State.writeIbuf_err (off : Nat) (bs : List Byte) : (s.writeIbuf off bs).err = s.err := rfl
@[simp] theorem State.writeIbuf_errcode (off : Nat) (bs : List Byte) : (s.writeIbuf off bs).errcode = s.errcode := rfl
@[simp] theorem State.writeIbuf_result (off : Nat) (bs : List Byte) : (s.writeIbuf off bs).result = s.result := rfl
@[simp] theorem State.writeIbuf_ibuf (off : Nat) (bs : List Byte) : (s.writeIbuf off bs).ibuf = s.ibuf.store off bs := rfl
@[simp] theorem State.writeIbuf_obuf (off : Nat) (bs : List Byte) : (s.writeIbuf off bs).obuf = s.obuf := rfl
@[simp] theorem State.writeIbuf_resetLine (off : Nat) (bs : List Byte) : (s.writeIbuf off bs).resetLine = s.resetLine := rfl
@[simp] theorem State.writeIbuf_delay (off : Nat) (bs : List Byte) : (s.writeIbuf off bs).delay = s.delay := rfl
@[simp] theorem State.writeIbuf_draws (off : Nat) (bs : List Byte) : (s.writeIbuf off bs).draws = s.draws := rfl
@[simp] theorem State.writeIbuf_hostTodo (off : Nat) (bs : List Byte) : (s.writeIbuf off bs).hostTodo = s.hostTodo := rfl
@[simp] theorem State.writeIbuf_hostGot (off : Nat) (bs : List Byte) : (s.writeIbuf off bs).hostGot = s.hostGot := rfl

@[simp] theorem State.setResult_params (v : Word) : (s.setResult v).params = s.params := rfl
@[simp] theorem State.setResult_rom (v : Word) : (s.setResult v).rom = s.rom := rfl
@[simp] theorem State.setResult_acc (v : Word) : (s.setResult v).acc = s.acc := rfl
@[simp] theorem State.setResult_pgcnt (v : Word) : (s.setResult v).pgcnt = s.pgcnt := rfl
@[simp] theorem State.setResult_pgstr (v : Word) : (s.setResult v).pgstr = s.pgstr := rfl
@[simp] theorem State.setResult_asmAcc (v : Word) : (s.setResult v).asmAcc = s.asmAcc := rfl
@[simp] theorem State.setResult_pending (v : Word) : (s.setResult v).pending = s.pending := rfl
@[simp] theorem State.setResult_busy (v : Word) : (s.setResult v).busy = s.busy := rfl
@[simp] theorem State.setResult_cfg (v : Word) : (s.setResult v).cfg = s.cfg := rfl
@[simp] theorem State.setResult_pageSize (v : Word) : (s.setResult v).pageSize = s.pageSize := rfl
@[simp] theorem State.setResult_blockSize (v : Word) : (s.setResult v).blockSize = s.blockSize := rfl
@[simp] theorem State.setResult_err (v : Word) : (s.setResult v).err = s.err := rfl
@[simp] theorem State.setResult_errcode (v : Word) : (s.setResult v).errcode = s.errcode := rfl
@[simp] theorem State.setResult_result (v : Word) : (s.setResult v).result = v := rfl
@[simp] theorem State.setResult_ibuf (v : Word) : (s.setResult v).ibuf = s.ibuf := rfl
@[simp] theorem State.setResult_obuf (v : Word) : (s.setResult v).obuf = s.obuf := rfl
@[simp] theorem State.setResult_resetLine (v : Word) : (s.setResult v).resetLine = s.resetLine := rfl
@[simp] theorem State.setResult_delay (v : Word) : (s.setResult v).delay = s.delay := rfl
@[simp] theorem State.setResult_draws (v : Word) : (s.setResult v).draws = s.draws := rfl
@[simp] theorem State.setResult_hostTodo (v : Word) : (s.setResult v).hostTodo = s.hostTodo := rfl
@[simp] theorem State.setResult_hostGot (v : Word) : (s.setResult v).hostGot = s.hostGot := rfl

@[simp] theorem State.setPg_params (a : Cells) (c : BitVec 8) (t : BitVec 4) : (s.setPg a c t).params = s.params := rfl
@[simp] theorem State.setPg_rom (a : Cells) (c : BitVec 8) (t : BitVec 4) : (s.setPg a c t).rom = s.rom := rfl
@[simp] theorem State.setPg_acc (a : Cells) (c : BitVec 8) (t : BitVec 4) : (s.setPg a c t).acc = a := rfl
@[simp] theorem State.setPg_pgcnt (a : Cells) (c : BitVec 8) (t : BitVec 4) : (s.setPg a c t).pgcnt = c := rfl
@[simp] theorem State.setPg_pgstr (a : Cells) (c : BitVec 8) (t : BitVec 4) : (s.setPg a c t).pgstr = t := rfl
@[simp] theorem State.setPg_asmAcc (a : Cells) (c : BitVec 8) (t : BitVec 4) : (s.setPg a c t).asmAcc = s.asmAcc := rfl
@[simp] theorem State.setPg_pending (a : Cells) (c : BitVec 8) (t : BitVec 4) : (s.setPg a c t).pending = s.pending := rfl
@[simp] theorem State.setPg_busy (a : Cells) (c : BitVec 8) (t : BitVec 4) : (s.setPg a c t).busy = s.busy := rfl
@[simp] theorem State.setPg_cfg (a : Cells) (c : BitVec 8) (t : BitVec 4) : (s.setPg a c t).cfg = s.cfg := rfl
@[simp] theorem State.setPg_pageSize (a : Cells) (c : BitVec 8) (t : BitVec 4) : (s.setPg a c t).pageSize = s.pageSize := rfl
@[simp] theorem State.setPg_blockSize (a : Cells) (c : BitVec 8) (t : BitVec 4) : (s.setPg a c t).blockSize = s.blockSize := rfl
@[simp] theorem State.setPg_err (a : Cells) (c : BitVec 8) (t : BitVec 4) : (s.setPg a c t).err = s.err := rfl
@[simp] theorem State.setPg_errcode (a : Cells) (c : BitVec 8) (t : BitVec 4) : (s.setPg a c t).errcode = s.errcode := rfl
@[simp] theorem State.setPg_result (a : Cells) (c : BitVec 8) (t : BitVec 4) : (s.setPg a c t).result = s.result := rfl
@[simp] theorem State.setPg_ibuf (a : Cells) (c : BitVec 8) (t : BitVec 4) : (s.setPg a c t).ibuf = s.ibuf := rfl
@[simp] theorem State.setPg_obuf (a : Cells) (c : BitVec 8) (t : BitVec 4) : (s.setPg a c t).obuf = s.obuf := rfl
@[simp] theorem State.setPg_resetLine (a : Cells) (c : BitVec 8) (t : BitVec 4) : (s.setPg a c t).resetLine = s.resetLine := rfl
@[simp] theorem State.setPg_delay (a : Cells) (c : BitVec 8) (t : BitVec 4) : (s.setPg a c t).delay = s.delay := rfl
@[simp] theorem State.setPg_draws (a : Cells) (c : BitVec 8) (t : BitVec 4) : (s.setPg a c t).draws = s.draws := rfl
@[simp] theorem State.setPg_hostTodo (a : Cells) (c : BitVec 8) (t : BitVec 4) : (s.setPg a c t).hostTodo = s.hostTodo := rfl
@[simp] theorem State.setPg_hostGot (a : Cells) (c : BitVec 8) (t : BitVec 4) : (s.setPg a c t).hostGot = s.hostGot := rfl

@[simp] theorem State.setAsmAcc_params (a : Cells) : (s.setAsmAcc a).params = s.params := rfl
@[simp] theorem State.setAsmAcc_rom (a : Cells) : (s.setAsmAcc a).rom = s.rom := rfl
@[simp] theorem State.setAsmAcc_acc (a : Cells) : (s.setAsmAcc a).acc = s.acc := rfl
@[simp] theorem State.setAsmAcc_pgcnt (a : Cells) : (s.setAsmAcc a).pgcnt = s.pgcnt := rfl
@[simp] theorem State.setAsmAcc_pgstr (a : Cells) : (s.setAsmAcc a).pgstr = s.pgstr := rfl
@[simp] theorem State.setAsmAcc_asmAcc (a : Cells) : (s.setAsmAcc a).asmAcc = a := rfl
@[simp] theorem State.setAsmAcc_pending (a : Cells) : (s.setAsmAcc a).pending = s.pending := rfl
@[simp] theorem State.setAsmAcc_busy (a : Cells) : (s.setAsmAcc a).busy = s.busy := rfl
@[simp] theorem State.setAsmAcc_cfg (a : Cells) : (s.setAsmAcc a).cfg = s.cfg := rfl
@[simp] theorem State.setAsmAcc_pageSize (a : Cells) : (s.setAsmAcc a).pageSize = s.pageSize := rfl
@[simp] theorem State.setAsmAcc_blockSize (a : Cells) : (s.setAsmAcc a).blockSize = s.blockSize := rfl
@[simp] theorem State.setAsmAcc_err (a : Cells) : (s.setAsmAcc a).err = s.err := rfl
@[simp] theorem State.setAsmAcc_errcode (a : Cells) : (s.setAsmAcc a).errcode = s.errcode := rfl
@[simp] theorem State.setAsmAcc_result (a : Cells) : (s.setAsmAcc a).result = s.result := rfl
@[simp] theorem State.setAsmAcc_ibuf (a : Cells) : (s.setAsmAcc a).ibuf = s.ibuf := rfl
@[simp] theorem State.setAsmAcc_obuf (a : Cells) : (s.setAsmAcc a).obuf = s.obuf := rfl
@[simp] theorem State.setAsmAcc_resetLine (a : Cells) : (s.setAsmAcc a).resetLine = s.resetLine := rfl
@[simp] theorem State.setAsmAcc_delay (a : Cells) : (s.setAsmAcc a).delay = s.delay := rfl
@[simp] theorem State.setAsmAcc_draws (a : Cells) : (s.setAsmAcc a).draws = s.draws := rfl
@[simp] theorem State.setAsmAcc_hostTodo (a : Cells) : (s.setAsmAcc a).hostTodo = s.hostTodo := rfl
@[simp] theorem State.setAsmAcc_hostGot (a : Cells) : (s.setAsmAcc a).hostGot = s.hostGot := rfl

@[simp] theorem State.setCfg_params (v : Word) : (s.setCfg v).params = s.params := rfl
@[simp] theorem State.setCfg_rom (v : Word) : (s.setCfg v).rom = s.rom := rfl
@[simp] theorem State.setCfg_acc (v : Word) : (s.setCfg v).acc = s.acc := rfl
@[simp] theorem State.setCfg_pgcnt (v : Word) : (s.setCfg v).pgcnt = s.pgcnt := rfl
@[simp] theorem State.setCfg_pgstr (v : Word) : (s.setCfg v).pgstr = s.pgstr := rfl
@[simp] theorem State.setCfg_asmAcc (v : Word) : (s.setCfg v).asmAcc = s.asmAcc := rfl
@[simp] theorem State.setCfg_pending (v : Word) : (s.setCfg v).pending = s.pending := rfl
@[simp] theorem State.setCfg_busy (v : Word) : (s.setCfg v).busy = s.busy := rfl
@[simp] theorem State.setCfg_cfg (v : Word) : (s.setCfg v).cfg = cfgStored v := rfl
@[simp] theorem State.setCfg_pageSize (v : Word) : (s.setCfg v).pageSize = s.pageSize := rfl
@[simp] theorem State.setCfg_blockSize (v : Word) : (s.setCfg v).blockSize = s.blockSize := rfl
@[simp] theorem State.setCfg_err (v : Word) : (s.setCfg v).err = s.err := rfl
@[simp] theorem State.setCfg_errcode (v : Word) : (s.setCfg v).errcode = s.errcode := rfl
@[simp] theorem State.setCfg_result (v : Word) : (s.setCfg v).result = s.result := rfl
@[simp] theorem State.setCfg_ibuf (v : Word) : (s.setCfg v).ibuf = s.ibuf := rfl
@[simp] theorem State.setCfg_obuf (v : Word) : (s.setCfg v).obuf = s.obuf := rfl
@[simp] theorem State.setCfg_resetLine (v : Word) : (s.setCfg v).resetLine = s.resetLine := rfl
@[simp] theorem State.setCfg_delay (v : Word) : (s.setCfg v).delay = s.delay := rfl
@[simp] theorem State.setCfg_draws (v : Word) : (s.setCfg v).draws = s.draws := rfl
@[simp] theorem State.setCfg_hostTodo (v : Word) : (s.setCfg v).hostTodo = s.hostTodo := rfl
@[simp] theorem State.setCfg_hostGot (v : Word) : (s.setCfg v).hostGot = s.hostGot := rfl

@[simp] theorem State.setPageSize_params (v : Word) : (s.setPageSize v).params = s.params := rfl
@[simp] theorem State.setPageSize_rom (v : Word) : (s.setPageSize v).rom = s.rom := rfl
@[simp] theorem State.setPageSize_acc (v : Word) : (s.setPageSize v).acc = s.acc := rfl
@[simp] theorem State.setPageSize_pgcnt (v : Word) : (s.setPageSize v).pgcnt = s.pgcnt := rfl
@[simp] theorem State.setPageSize_pgstr (v : Word) : (s.setPageSize v).pgstr = s.pgstr := rfl
@[simp] theorem State.setPageSize_asmAcc (v : Word) : (s.setPageSize v).asmAcc = s.asmAcc := rfl
@[simp] theorem State.setPageSize_pending (v : Word) : (s.setPageSize v).pending = s.pending := rfl
@[simp] theorem State.setPageSize_busy (v : Word) : (s.setPageSize v).busy = s.busy := rfl
@[simp] theorem State.setPageSize_cfg (v : Word) : (s.setPageSize v).cfg = s.cfg := rfl
@[simp] theorem State.setPageSize_pageSize (v : Word) : (s.setPageSize v).pageSize = v := rfl
@[simp] theorem State.setPageSize_blockSize (v : Word) : (s.setPageSize v).blockSize = s.blockSize := rfl
@[simp] theorem State.setPageSize_err (v : Word) : (s.setPageSize v).err = s.err := rfl
@[simp] theorem State.setPageSize_errcode (v : Word) : (s.setPageSize v).errcode = s.errcode := rfl
@[simp] theorem State.setPageSize_result (v : Word) : (s.setPageSize v).result = s.result := rfl
@[simp] theorem State.setPageSize_ibuf (v : Word) : (s.setPageSize v).ibuf = s.ibuf := rfl
@[simp] theorem State.setPageSize_obuf (v : Word) : (s.setPageSize v).obuf = s.obuf := rfl
@[simp] theorem State.setPageSize_resetLine (v : Word) : (s.setPageSize v).resetLine = s.resetLine := rfl
@[simp] theorem State.setPageSize_delay (v : Word) : (s.setPageSize v).delay = s.delay := rfl
@[simp] theorem State.setPageSize_draws (v : Word) : (s.setPageSize v).draws = s.draws := rfl
@[simp] theorem State.setPageSize_hostTodo (v : Word) : (s.setPageSize v).hostTodo = s.hostTodo := rfl
@[simp] theorem State.setPageSize_hostGot (v : Word) : (s.setPageSize v).hostGot = s.hostGot := rfl

@[simp] theorem State.setBlockSize_params (v : Word) : (s.setBlockSize v).params = s.params := rfl
@[simp] theorem State.setBlockSize_rom (v : Word) : (s.setBlockSize v).rom = s.rom := rfl
@[simp] theorem State.setBlockSize_acc (v : Word) : (s.setBlockSize v).acc = s.acc := rfl
@[simp] theorem State.setBlockSize_pgcnt (v : Word) : (s.setBlockSize v).pgcnt = s.pgcnt := rfl
@[simp] theorem State.setBlockSize_pgstr (v : Word) : (s.setBlockSize v).pgstr = s.pgstr := rfl
@[simp] theorem State.setBlockSize_asmAcc (v : Word) : (s.setBlockSize v).asmAcc = s.asmAcc := rfl
@[simp] theorem State.setBlockSize_pending (v : Word) : (s.setBlockSize v).pending = s.pending := rfl
@[simp] theorem State.setBlockSize_busy (v : Word) : (s.setBlockSize v).busy = s.busy := rfl
@[simp] theorem State.setBlockSize_cfg (v : Word) : (s.setBlockSize v).cfg = s.cfg := rfl
@[simp] theorem State.setBlockSize_pageSize (v : Word) : (s.setBlockSize v).pageSize = s.pageSize := rfl
@[simp] theorem State.setBlockSize_blockSize (v : Word) : (s.setBlockSize v).blockSize = v := rfl
@[simp] theorem State.setBlockSize_err (v : Word) : (s.setBlockSize v).err = s.err := rfl
@[simp] theorem State.setBlockSize_errcode (v : Word) : (s.setBlockSize v).errcode = s.errcode := rfl
@[simp] theorem State.setBlockSize_result (v : Word) : (s.setBlockSize v).result = s.result := rfl
@[simp] theorem State.setBlockSize_ibuf (v : Word) : (s.setBlockSize v).ibuf = s.ibuf := rfl
@[simp] theorem State.setBlockSize_obuf (v : Word) : (s.setBlockSize v).obuf = s.obuf := rfl
@[simp] theorem State.setBlockSize_resetLine (v : Word) : (s.setBlockSize v).resetLine = s.resetLine := rfl
@[simp] theorem State.setBlockSize_delay (v : Word) : (s.setBlockSize v).delay = s.delay := rfl
@[simp] theorem State.setBlockSize_draws (v : Word) : (s.setBlockSize v).draws = s.draws := rfl
@[simp] theorem State.setBlockSize_hostTodo (v : Word) : (s.setBlockSize v).hostTodo = s.hostTodo := rfl
@[simp] theorem State.setBlockSize_hostGot (v : Word) : (s.setBlockSize v).hostGot = s.hostGot := rfl

@[simp] theorem State.succeed_params : (s.succeed).params = s.params := rfl
@[simp] theorem State.succeed_rom : (s.succeed).rom = s.rom := rfl
@[simp] theorem State.succeed_acc : (s.succeed).acc = s.acc := rfl
@[simp] theorem State.succeed_pgcnt : (s.succeed).pgcnt = s.pgcnt := rfl
@[simp] theorem State.succeed_pgstr : (s.succeed).pgstr = s.pgstr := rfl
@[simp] theorem State.succeed_asmAcc : (s.succeed).asmAcc = s.asmAcc := rfl
@[simp] theorem State.succeed_pending : (s.succeed).pending = none := rfl
@[simp] theorem State.succeed_busy : (s.succeed).busy = false := rfl
@[simp] theorem State.succeed_cfg : (s.succeed).cfg = s.cfg := rfl
@[simp] theorem State.succeed_pageSize : (s.succeed).pageSize = s.pageSize := rfl
@[simp] theorem State.succeed_blockSize : (s.succeed).blockSize = s.blockSize := rfl
@[simp] theorem State.succeed_err : (s.succeed).err = false := rfl
@[simp] theorem State.succeed_errcode : (s.succeed).errcode = 0 := rfl
@[simp] theorem State.succeed_result : (s.succeed).result = s.result := rfl
@[simp] theorem State.succeed_ibuf : (s.succeed).ibuf = s.ibuf := rfl
@[simp] theorem State.succeed_obuf : (s.succeed).obuf = s.obuf := rfl
@[simp] theorem State.succeed_resetLine : (s.succeed).resetLine = s.resetLine := rfl
@[simp] theorem State.succeed_delay : (s.succeed).delay = s.delay := rfl
@[simp] theorem State.succeed_draws : (s.succeed).draws = s.draws := rfl
@[simp] theorem State.succeed_hostTodo : (s.succeed).hostTodo = s.hostTodo := rfl
@[simp] theorem State.succeed_hostGot : (s.succeed).hostGot = s.hostGot := rfl

@[simp] theorem State.raise_params (c : ErrCode) : (s.raise c).params = s.params := rfl
@[simp] theorem State.raise_rom (c : ErrCode) : (s.raise c).rom = s.rom := rfl
@[simp] theorem State.raise_acc (c : ErrCode) : (s.raise c).acc = s.acc := rfl
@[simp] theorem State.raise_pgcnt (c : ErrCode) : (s.raise c).pgcnt = s.pgcnt := rfl
@[simp] theorem State.raise_pgstr (c : ErrCode) : (s.raise c).pgstr = s.pgstr := rfl
@[simp] theorem State.raise_asmAcc (c : ErrCode) : (s.raise c).asmAcc = s.asmAcc := rfl
@[simp] theorem State.raise_pending (c : ErrCode) : (s.raise c).pending = none := rfl
@[simp] theorem State.raise_busy (c : ErrCode) : (s.raise c).busy = false := rfl
@[simp] theorem State.raise_cfg (c : ErrCode) : (s.raise c).cfg = s.cfg := rfl
@[simp] theorem State.raise_pageSize (c : ErrCode) : (s.raise c).pageSize = s.pageSize := rfl
@[simp] theorem State.raise_blockSize (c : ErrCode) : (s.raise c).blockSize = s.blockSize := rfl
@[simp] theorem State.raise_err (c : ErrCode) : (s.raise c).err = true := rfl
@[simp] theorem State.raise_errcode (c : ErrCode) : (s.raise c).errcode = c.code := rfl
@[simp] theorem State.raise_result (c : ErrCode) : (s.raise c).result = s.result := rfl
@[simp] theorem State.raise_ibuf (c : ErrCode) : (s.raise c).ibuf = s.ibuf := rfl
@[simp] theorem State.raise_obuf (c : ErrCode) : (s.raise c).obuf = s.obuf := rfl
@[simp] theorem State.raise_resetLine (c : ErrCode) : (s.raise c).resetLine = s.resetLine := rfl
@[simp] theorem State.raise_delay (c : ErrCode) : (s.raise c).delay = s.delay := rfl
@[simp] theorem State.raise_draws (c : ErrCode) : (s.raise c).draws = s.draws := rfl
@[simp] theorem State.raise_hostTodo (c : ErrCode) : (s.raise c).hostTodo = s.hostTodo := rfl
@[simp] theorem State.raise_hostGot (c : ErrCode) : (s.raise c).hostGot = s.hostGot := rfl

@[simp] theorem State.latch_params (w : Word) : (s.latch w).params = s.params := rfl
@[simp] theorem State.latch_rom (w : Word) : (s.latch w).rom = s.rom := rfl
@[simp] theorem State.latch_acc (w : Word) : (s.latch w).acc = s.acc := rfl
@[simp] theorem State.latch_pgcnt (w : Word) : (s.latch w).pgcnt = s.pgcnt := rfl
@[simp] theorem State.latch_pgstr (w : Word) : (s.latch w).pgstr = s.pgstr := rfl
@[simp] theorem State.latch_asmAcc (w : Word) : (s.latch w).asmAcc = s.asmAcc := rfl
@[simp] theorem State.latch_pending (w : Word) : (s.latch w).pending = some w := rfl
@[simp] theorem State.latch_busy (w : Word) : (s.latch w).busy = true := rfl
@[simp] theorem State.latch_cfg (w : Word) : (s.latch w).cfg = s.cfg := rfl
@[simp] theorem State.latch_pageSize (w : Word) : (s.latch w).pageSize = s.pageSize := rfl
@[simp] theorem State.latch_blockSize (w : Word) : (s.latch w).blockSize = s.blockSize := rfl
@[simp] theorem State.latch_err (w : Word) : (s.latch w).err = false := rfl
@[simp] theorem State.latch_errcode (w : Word) : (s.latch w).errcode = 0 := rfl
@[simp] theorem State.latch_result (w : Word) : (s.latch w).result = s.result := rfl
@[simp] theorem State.latch_ibuf (w : Word) : (s.latch w).ibuf = s.ibuf := rfl
@[simp] theorem State.latch_obuf (w : Word) : (s.latch w).obuf = s.obuf := rfl
@[simp] theorem State.latch_resetLine (w : Word) : (s.latch w).resetLine = s.resetLine := rfl
@[simp] theorem State.latch_delay (w : Word) : (s.latch w).delay = Config.freeDelay s.draws := rfl
@[simp] theorem State.latch_draws (w : Word) : (s.latch w).draws = s.draws + 1 := rfl
@[simp] theorem State.latch_hostTodo (w : Word) : (s.latch w).hostTodo = s.hostTodo := rfl
@[simp] theorem State.latch_hostGot (w : Word) : (s.latch w).hostGot = s.hostGot := rfl

@[simp] theorem State.assertReset_params : (s.assertReset).params = s.params := rfl
@[simp] theorem State.assertReset_rom : (s.assertReset).rom = s.rom := rfl
@[simp] theorem State.assertReset_acc : (s.assertReset).acc = Cells.zero := rfl
@[simp] theorem State.assertReset_pgcnt : (s.assertReset).pgcnt = 0 := rfl
@[simp] theorem State.assertReset_pgstr : (s.assertReset).pgstr = 4 := rfl
@[simp] theorem State.assertReset_asmAcc : (s.assertReset).asmAcc = Cells.zero := rfl
@[simp] theorem State.assertReset_pending : (s.assertReset).pending = none := rfl
@[simp] theorem State.assertReset_busy : (s.assertReset).busy = false := rfl
@[simp] theorem State.assertReset_cfg : (s.assertReset).cfg = 0 := rfl
@[simp] theorem State.assertReset_pageSize : (s.assertReset).pageSize = 0 := rfl
@[simp] theorem State.assertReset_blockSize : (s.assertReset).blockSize = 0 := rfl
@[simp] theorem State.assertReset_err : (s.assertReset).err = false := rfl
@[simp] theorem State.assertReset_errcode : (s.assertReset).errcode = 0 := rfl
@[simp] theorem State.assertReset_result : (s.assertReset).result = 0 := rfl
@[simp] theorem State.assertReset_ibuf : (s.assertReset).ibuf = [] := rfl
@[simp] theorem State.assertReset_obuf : (s.assertReset).obuf = [] := rfl
@[simp] theorem State.assertReset_resetLine : (s.assertReset).resetLine = true := rfl
@[simp] theorem State.assertReset_delay : (s.assertReset).delay = 0 := rfl
@[simp] theorem State.assertReset_draws : (s.assertReset).draws = s.draws := rfl
@[simp] theorem State.assertReset_hostTodo : (s.assertReset).hostTodo = s.hostTodo := rfl
@[simp] theorem State.assertReset_hostGot : (s.assertReset).hostGot = s.hostGot := rfl

@[simp] theorem State.releaseReset_params : (s.releaseReset).params = s.params := rfl
@[simp] theorem State.releaseReset_rom : (s.releaseReset).rom = s.rom := rfl
@[simp] theorem State.releaseReset_acc : (s.releaseReset).acc = s.acc := rfl
@[simp] theorem State.releaseReset_pgcnt : (s.releaseReset).pgcnt = s.pgcnt := rfl
@[simp] theorem State.releaseReset_pgstr : (s.releaseReset).pgstr = s.pgstr := rfl
@[simp] theorem State.releaseReset_asmAcc : (s.releaseReset).asmAcc = s.asmAcc := rfl
@[simp] theorem State.releaseReset_pending : (s.releaseReset).pending = s.pending := rfl
@[simp] theorem State.releaseReset_busy : (s.releaseReset).busy = s.busy := rfl
@[simp] theorem State.releaseReset_cfg : (s.releaseReset).cfg = s.cfg := rfl
@[simp] theorem State.releaseReset_pageSize : (s.releaseReset).pageSize = s.pageSize := rfl
@[simp] theorem State.releaseReset_blockSize : (s.releaseReset).blockSize = s.blockSize := rfl
@[simp] theorem State.releaseReset_err : (s.releaseReset).err = s.err := rfl
@[simp] theorem State.releaseReset_errcode : (s.releaseReset).errcode = s.errcode := rfl
@[simp] theorem State.releaseReset_result : (s.releaseReset).result = s.result := rfl
@[simp] theorem State.releaseReset_ibuf : (s.releaseReset).ibuf = s.ibuf := rfl
@[simp] theorem State.releaseReset_obuf : (s.releaseReset).obuf = s.obuf := rfl
@[simp] theorem State.releaseReset_resetLine : (s.releaseReset).resetLine = false := rfl
@[simp] theorem State.releaseReset_delay : (s.releaseReset).delay = s.delay := rfl
@[simp] theorem State.releaseReset_draws : (s.releaseReset).draws = s.draws := rfl
@[simp] theorem State.releaseReset_hostTodo : (s.releaseReset).hostTodo = s.hostTodo := rfl
@[simp] theorem State.releaseReset_hostGot : (s.releaseReset).hostGot = s.hostGot := rfl

@[simp] theorem State.deliver_params (v : Word) : (s.deliver v).params = s.params := rfl
@[simp] theorem State.deliver_rom (v : Word) : (s.deliver v).rom = s.rom := rfl
@[simp] theorem State.deliver_acc (v : Word) : (s.deliver v).acc = s.acc := rfl
@[simp] theorem State.deliver_pgcnt (v : Word) : (s.deliver v).pgcnt = s.pgcnt := rfl
@[simp] theorem State.deliver_pgstr (v : Word) : (s.deliver v).pgstr = s.pgstr := rfl
@[simp] theorem State.deliver_asmAcc (v : Word) : (s.deliver v).asmAcc = s.asmAcc := rfl
@[simp] theorem State.deliver_pending (v : Word) : (s.deliver v).pending = s.pending := rfl
@[simp] theorem State.deliver_busy (v : Word) : (s.deliver v).busy = s.busy := rfl
@[simp] theorem State.deliver_cfg (v : Word) : (s.deliver v).cfg = s.cfg := rfl
@[simp] theorem State.deliver_pageSize (v : Word) : (s.deliver v).pageSize = s.pageSize := rfl
@[simp] theorem State.deliver_blockSize (v : Word) : (s.deliver v).blockSize = s.blockSize := rfl
@[simp] theorem State.deliver_err (v : Word) : (s.deliver v).err = s.err := rfl
@[simp] theorem State.deliver_errcode (v : Word) : (s.deliver v).errcode = s.errcode := rfl
@[simp] theorem State.deliver_result (v : Word) : (s.deliver v).result = s.result := rfl
@[simp] theorem State.deliver_ibuf (v : Word) : (s.deliver v).ibuf = s.ibuf := rfl
@[simp] theorem State.deliver_obuf (v : Word) : (s.deliver v).obuf = s.obuf := rfl
@[simp] theorem State.deliver_resetLine (v : Word) : (s.deliver v).resetLine = s.resetLine := rfl
@[simp] theorem State.deliver_delay (v : Word) : (s.deliver v).delay = s.delay := rfl
@[simp] theorem State.deliver_draws (v : Word) : (s.deliver v).draws = s.draws + 4 := rfl
@[simp] theorem State.deliver_hostTodo (v : Word) : (s.deliver v).hostTodo = s.hostTodo := rfl
@[simp] theorem State.deliver_hostGot (v : Word) : (s.deliver v).hostGot = v :: s.hostGot := rfl

@[simp] theorem State.setTodo_params (ms : List HostMove) : (s.setTodo ms).params = s.params := rfl
@[simp] theorem State.setTodo_rom (ms : List HostMove) : (s.setTodo ms).rom = s.rom := rfl
@[simp] theorem State.setTodo_acc (ms : List HostMove) : (s.setTodo ms).acc = s.acc := rfl
@[simp] theorem State.setTodo_pgcnt (ms : List HostMove) : (s.setTodo ms).pgcnt = s.pgcnt := rfl
@[simp] theorem State.setTodo_pgstr (ms : List HostMove) : (s.setTodo ms).pgstr = s.pgstr := rfl
@[simp] theorem State.setTodo_asmAcc (ms : List HostMove) : (s.setTodo ms).asmAcc = s.asmAcc := rfl
@[simp] theorem State.setTodo_pending (ms : List HostMove) : (s.setTodo ms).pending = s.pending := rfl
@[simp] theorem State.setTodo_busy (ms : List HostMove) : (s.setTodo ms).busy = s.busy := rfl
@[simp] theorem State.setTodo_cfg (ms : List HostMove) : (s.setTodo ms).cfg = s.cfg := rfl
@[simp] theorem State.setTodo_pageSize (ms : List HostMove) : (s.setTodo ms).pageSize = s.pageSize := rfl
@[simp] theorem State.setTodo_blockSize (ms : List HostMove) : (s.setTodo ms).blockSize = s.blockSize := rfl
@[simp] theorem State.setTodo_err (ms : List HostMove) : (s.setTodo ms).err = s.err := rfl
@[simp] theorem State.setTodo_errcode (ms : List HostMove) : (s.setTodo ms).errcode = s.errcode := rfl
@[simp] theorem State.setTodo_result (ms : List HostMove) : (s.setTodo ms).result = s.result := rfl
@[simp] theorem State.setTodo_ibuf (ms : List HostMove) : (s.setTodo ms).ibuf = s.ibuf := rfl
@[simp] theorem State.setTodo_obuf (ms : List HostMove) : (s.setTodo ms).obuf = s.obuf := rfl
@[simp] theorem State.setTodo_resetLine (ms : List HostMove) : (s.setTodo ms).resetLine = s.resetLine := rfl
@[simp] theorem State.setTodo_delay (ms : List HostMove) : (s.setTodo ms).delay = s.delay := rfl
@[simp] theorem State.setTodo_draws (ms : List HostMove) : (s.setTodo ms).draws = s.draws := rfl
@[simp] theorem State.setTodo_hostTodo (ms : List HostMove) : (s.setTodo ms).hostTodo = ms := rfl
@[simp] theorem State.setTodo_hostGot (ms : List HostMove) : (s.setTodo ms).hostGot = s.hostGot := rfl

@[simp] theorem State.setDelay_params (n : Nat) : (s.setDelay n).params = s.params := rfl
@[simp] theorem State.setDelay_rom (n : Nat) : (s.setDelay n).rom = s.rom := rfl
@[simp] theorem State.setDelay_acc (n : Nat) : (s.setDelay n).acc = s.acc := rfl
@[simp] theorem State.setDelay_pgcnt (n : Nat) : (s.setDelay n).pgcnt = s.pgcnt := rfl
@[simp] theorem State.setDelay_pgstr (n : Nat) : (s.setDelay n).pgstr = s.pgstr := rfl
@[simp] theorem State.setDelay_asmAcc (n : Nat) : (s.setDelay n).asmAcc = s.asmAcc := rfl
@[simp] theorem State.setDelay_pending (n : Nat) : (s.setDelay n).pending = s.pending := rfl
@[simp] theorem State.setDelay_busy (n : Nat) : (s.setDelay n).busy = s.busy := rfl
@[simp] theorem State.setDelay_cfg (n : Nat) : (s.setDelay n).cfg = s.cfg := rfl
@[simp] theorem State.setDelay_pageSize (n : Nat) : (s.setDelay n).pageSize = s.pageSize := rfl
@[simp] theorem State.setDelay_blockSize (n : Nat) : (s.setDelay n).blockSize = s.blockSize := rfl
@[simp] theorem State.setDelay_err (n : Nat) : (s.setDelay n).err = s.err := rfl
@[simp] theorem State.setDelay_errcode (n : Nat) : (s.setDelay n).errcode = s.errcode := rfl
@[simp] theorem State.setDelay_result (n : Nat) : (s.setDelay n).result = s.result := rfl
@[simp] theorem State.setDelay_ibuf (n : Nat) : (s.setDelay n).ibuf = s.ibuf := rfl
@[simp] theorem State.setDelay_obuf (n : Nat) : (s.setDelay n).obuf = s.obuf := rfl
@[simp] theorem State.setDelay_resetLine (n : Nat) : (s.setDelay n).resetLine = s.resetLine := rfl
@[simp] theorem State.setDelay_delay (n : Nat) : (s.setDelay n).delay = n := rfl
@[simp] theorem State.setDelay_draws (n : Nat) : (s.setDelay n).draws = s.draws := rfl
@[simp] theorem State.setDelay_hostTodo (n : Nat) : (s.setDelay n).hostTodo = s.hostTodo := rfl
@[simp] theorem State.setDelay_hostGot (n : Nat) : (s.setDelay n).hostGot = s.hostGot := rfl

@[simp] theorem State.aboutToRun_params (w : Word) : (s.aboutToRun w).params = s.params := rfl
@[simp] theorem State.aboutToRun_rom (w : Word) : (s.aboutToRun w).rom = s.rom := rfl
@[simp] theorem State.aboutToRun_acc (w : Word) : (s.aboutToRun w).acc = s.acc := rfl
@[simp] theorem State.aboutToRun_pgcnt (w : Word) : (s.aboutToRun w).pgcnt = s.pgcnt := rfl
@[simp] theorem State.aboutToRun_pgstr (w : Word) : (s.aboutToRun w).pgstr = s.pgstr := rfl
@[simp] theorem State.aboutToRun_asmAcc (w : Word) : (s.aboutToRun w).asmAcc = s.asmAcc := rfl
@[simp] theorem State.aboutToRun_pending (w : Word) : (s.aboutToRun w).pending = some w := rfl
@[simp] theorem State.aboutToRun_busy (w : Word) : (s.aboutToRun w).busy = true := rfl
@[simp] theorem State.aboutToRun_cfg (w : Word) : (s.aboutToRun w).cfg = s.cfg := rfl
@[simp] theorem State.aboutToRun_pageSize (w : Word) : (s.aboutToRun w).pageSize = s.pageSize := rfl
@[simp] theorem State.aboutToRun_blockSize (w : Word) : (s.aboutToRun w).blockSize = s.blockSize := rfl
@[simp] theorem State.aboutToRun_err (w : Word) : (s.aboutToRun w).err = false := rfl
@[simp] theorem State.aboutToRun_errcode (w : Word) : (s.aboutToRun w).errcode = 0 := rfl
@[simp] theorem State.aboutToRun_result (w : Word) : (s.aboutToRun w).result = s.result := rfl
@[simp] theorem State.aboutToRun_ibuf (w : Word) : (s.aboutToRun w).ibuf = s.ibuf := rfl
@[simp] theorem State.aboutToRun_obuf (w : Word) : (s.aboutToRun w).obuf = s.obuf := rfl
@[simp] theorem State.aboutToRun_resetLine (w : Word) : (s.aboutToRun w).resetLine = false := rfl
@[simp] theorem State.aboutToRun_delay (w : Word) : (s.aboutToRun w).delay = 0 := rfl
@[simp] theorem State.aboutToRun_draws (w : Word) : (s.aboutToRun w).draws = s.draws := rfl
@[simp] theorem State.aboutToRun_hostTodo (w : Word) : (s.aboutToRun w).hostTodo = s.hostTodo := rfl
@[simp] theorem State.aboutToRun_hostGot (w : Word) : (s.aboutToRun w).hostGot = s.hostGot := rfl

@[simp] theorem State.complete_ok (t : State) : s.complete (.ok t) = t.succeed := rfl

@[simp] theorem State.complete_error (c : ErrCode) : s.complete (.error c) = s.raise c := rfl

end Sys2Proof.Machine
end

