-- ==== Sys2Proof/Laws/Asm.lean ====
section
/-! SUPPORT. What the Layout Assembler can do to the state, said once: it writes OBUF and its private
accumulator and uses free values, nothing else; where its pages lie; and the sizes of a layout that
passed the check. -/

namespace Sys2Proof.Machine

/-- `t` is `s` but for OBUF, the private accumulator and the count of free values used. -/
def State.AsmFrame (s t : State) : Prop :=
  t = { s with obuf := t.obuf, asmAcc := t.asmAcc, draws := t.draws }

theorem State.AsmFrame.refl (s : State) : s.AsmFrame s := rfl

theorem State.AsmFrame.trans {s t u : State} (h : s.AsmFrame t) (h' : t.AsmFrame u) :
    s.AsmFrame u := by
  unfold State.AsmFrame at *
  exact h'.trans (by rw [h])

/-- The engine's writes: OBUF, the private accumulator, the count of free values. -/
theorem State.drew_frame (s : State) (n : Nat) : s.AsmFrame (s.drew n) := rfl

theorem State.setAsmAcc_frame (s : State) (a : Cells) : s.AsmFrame (s.setAsmAcc a) := rfl

theorem State.memWrite_frame (s : State) (off : Nat) (bs : List Byte) :
    s.AsmFrame (s.memWrite off bs) := rfl

theorem State.copyPage_frame (s : State) (l : Layout) (i : Nat) : s.AsmFrame (s.copyPage l i) :=
  (State.drew_frame s _).trans (State.memWrite_frame _ _ _)

theorem State.fillOob_frame (s : State) (l : Layout) (i : Nat) (b : Byte) :
    s.AsmFrame (s.fillOob l i b) := State.memWrite_frame s _ _

theorem State.eccSlot_frame (s : State) (l : Layout) (i : Nat) (str : BitVec 4) (k : Nat) :
    s.AsmFrame (s.eccSlot l i str k) :=
  ((State.drew_frame s _).trans (State.setAsmAcc_frame _ _)).trans (State.memWrite_frame _ _ _)

theorem State.eccSlots_frame (s : State) (l : Layout) (i : Nat) (str : BitVec 4) (n : Nat) :
    s.AsmFrame (s.eccSlots l i str n) := by
  induction n with
  | zero => rfl
  | succ n ih => exact ih.trans (State.eccSlot_frame _ l i str n)

theorem State.oobFor_frame (s : State) (l : Layout) (i : Nat) : s.AsmFrame (s.oobFor l i) := by
  unfold State.oobFor
  cases l.mode
  · exact State.fillOob_frame s l i _
  · exact State.fillOob_frame s l i _
  · exact (State.fillOob_frame s l i _).trans (State.eccSlots_frame _ l i _ _)
  · exact (State.fillOob_frame s l i _).trans (State.eccSlots_frame _ l i _ _)

/-- Assembling a page changes OBUF, the private accumulator and the count of free values alone (R29). -/
theorem State.assemblePage_frame (s : State) (l : Layout) (i : Nat) :
    s.AsmFrame (s.assemblePage l i) :=
  (State.copyPage_frame s l i).trans (State.oobFor_frame _ l i)

/-- The same of assembling pages 0 .. n-1. -/
theorem State.assemblePages_frame (s : State) (l : Layout) (n : Nat) :
    s.AsmFrame (s.assemblePages l n) := by
  induction n with
  | zero => rfl
  | succ n ih => exact ih.trans (State.assemblePage_frame _ l n)

/-- What a passed check says (42_layout_assembler.md R152). -/
structure CheckedLayout (s : State) (l : Layout) : Prop where
  page_eq : l.page = s.pageSize.toNat
  block_eq : l.block = s.blockSize.toNat
  mode_eq : resolve s.cfg = .ok l.mode
  block_pos : 0 < l.block
  page_pos : 0 < l.page
  page_mult : l.page % 32 = 0
  block_le : l.block ≤ s.params.maxBlockSize
  block_mult : l.block % l.page = 0
  ecc_mult : l.mode.isEcc = true → l.page % 128 = 0

/-- The configuration check in the one case it returns a layout. -/
theorem checkedLayout_of_ok {s : State} {l : Layout} (h : checkCfg s = .ok l) :
    CheckedLayout s l := by
  unfold checkCfg at h
  split at h
  · cases h
  split at h
  · cases h
  split at h
  · cases h
  split at h
  · cases h
  split at h
  · cases h
  split at h
  · cases h
  split at h
  · cases h
  · next mode hm =>
    split at h
    · cases h
    · cases h
      refine ⟨rfl, rfl, hm, ?_, ?_, ?_, ?_, ?_, ?_⟩
      · dsimp only; omega
      · dsimp only; omega
      · dsimp only; omega
      · dsimp only; omega
      · dsimp only; omega
      · intro he
        dsimp only at *
        simp_all

/-- The configuration check when it fails: one of the codes 2 to 10. -/
theorem code_of_checkCfg_error {s : State} {c : ErrCode} (h : checkCfg s = .error c) :
    2 ≤ c.code.toNat ∧ c.code.toNat ≤ 10 := by
  have hr : ∀ m, resolve s.cfg = .error m → 2 ≤ m.code.toNat ∧ m.code.toNat ≤ 10 := by
    intro m hm
    unfold resolve at hm
    repeat' split at hm
    all_goals first
      | (cases hm; decide)
      | cases hm
  unfold checkCfg at h
  repeat' split at h
  all_goals first
    | (cases h; decide)
    | (next hc => cases h; exact hr _ hc)
    | cases h

/-- The layout arithmetic of a checked layout (R153). -/
theorem CheckedLayout.sizes {s : State} {l : Layout} (h : CheckedLayout s l) :
    l.block = l.pages * l.page ∧ l.page = 32 * l.oob ∧ l.outLen = l.block + l.block / 32 := by
  have h1 : l.block = l.pages * l.page :=
    (Nat.div_mul_cancel (Nat.dvd_of_mod_eq_zero h.block_mult)).symm
  have h2 : l.page = 32 * l.oob := by have := h.page_mult; unfold Layout.oob; omega
  refine ⟨h1, h2, ?_⟩
  have h3 : l.block = 32 * (l.pages * l.oob) := by
    rw [h1, Nat.mul_left_comm, ← h2]
  have h4 : l.block / 32 = l.pages * l.oob := by
    rw [h3]; exact Nat.mul_div_cancel_left _ (by decide)
  unfold Layout.outLen
  rw [Nat.mul_add, h4, ← h1]

/-- The output block fits OBUF (R8, R153). -/
theorem CheckedLayout.outLen_le {s : State} {l : Layout} (h : CheckedLayout s l) :
    l.outLen ≤ obufSize s.params := by
  rw [h.sizes.2.2]
  unfold obufSize
  have := h.block_le
  have := Nat.div_le_div_right (c := 32) h.block_le
  omega

end Sys2Proof.Machine
end

