-- ==== Sys2Proof/Laws/Bus.lean ====
section
/-! SUPPORT. What a HOST step can do to the state, said once. -/

namespace Sys2Proof.Machine

/-- What a HOST move that has a step may have done (R61 to R69, R181, R230). -/
inductive HostDid (s : State) : State → Prop
  | nothing : HostDid s s
  | gave (v : Word) (hr : s.resetLine = false) : HostDid s (s.deliver v)
  | polled (hr : s.resetLine = false) (hb : s.busy = true) :
    HostDid s ((s.setTodo (.wait :: s.hostTodo)).deliver s.status)
  | wroteCfg (v : Word) (hb : s.busy = false) : HostDid s (s.setCfg v)
  | wrotePageSize (v : Word) (hb : s.busy = false) : HostDid s (s.setPageSize v)
  | wroteBlockSize (v : Word) (hb : s.busy = false) : HostDid s (s.setBlockSize v)
  | issued (w : Word) (hr : s.resetLine = false) (hb : s.busy = false) : HostDid s (s.latch w)
  | wroteIbuf (off : Nat) (bs : List Byte) (hb : s.busy = false)
    (h : off + bs.length ≤ s.params.maxBlockSize) : HostDid s (s.writeIbuf off bs)
  | wroteObuf (off : Nat) (bs : List Byte) (hb : s.busy = false)
    (h : off + bs.length ≤ obufSize s.params) : HostDid s (s.memWrite off bs)
  | assertedReset : HostDid s s.assertReset
  | releasedReset : HostDid s s.releaseReset

/-- What it means that an access at a place is not refused for its shape (R61 to R63, R230). -/
theorem refusesAt_none {s : State} {sp : Space} {off w : Nat} (h : s.refusesAt sp off w = none) :
    s.resetLine = false ∧ widthAllowed sp w = true ∧ aligned off w = true ∧
      ¬ (sp = .reg ∧ regAt off = none) ∧ off + w / 8 ≤ spaceSize s.params sp := by
  unfold State.refusesAt at h
  split at h
  · cases h
  · next hr =>
    split at h
    · cases h
    · next hw =>
      split at h
      · cases h
      · next ha =>
        split at h
        · cases h
        · next hu =>
          split at h
          · cases h
          · next hi =>
            refine ⟨by simpa using hr, by simpa using hw, by simpa using ha, hu, ?_⟩
            simpa [inRange] using hi

theorem busBytes_length {sp : Space} {w : Nat} (hsp : sp ≠ .reg) (h : widthAllowed sp w = true)
    (v : Word) : (busBytes w v).length = w / 8 := by
  have hw : w = 8 ∨ w = 32 := by
    cases sp
    · exact absurd rfl hsp
    · simpa [widthAllowed] using h
    · simpa [widthAllowed] using h
  rcases hw with rfl | rfl <;> rfl

/-- A host access that has a step. -/
theorem hostAccess_did {a : Access} {s t : State} (h : hostAccess a s = .next t) : HostDid s t := by
  unfold hostAccess at h
  cases hr : s.refuses a with
  | some r => rw [hr] at h; cases h
  | none =>
    rw [hr] at h
    cases h
    cases a with
    | read sp off w =>
      exact .gave _ (refusesAt_none (by simpa [State.refuses] using hr)).1
    | write sp off w v =>
      simp only [State.refuses] at hr
      split at hr
      · cases hr
      · next hn =>
        obtain ⟨hreset, hw, -, -, hin⟩ := refusesAt_none hn
        have hz : s.busy = true → writeHazard sp off = false := by
          intro hb
          by_contra hc
          simp [hb, hc] at hr
        have hidle : writeHazard sp off = true → s.busy = false := by
          intro hwz
          cases hb : s.busy
          · rfl
          · rw [hz hb] at hwz; cases hwz
        cases sp with
        | reg =>
          simp only [State.performs, State.hostWrite]
          cases hreg : regAt off with
          | none => exact .nothing
          | some r =>
            have hi : regWriteHazard r = true → s.busy = false := by
              intro hwz; exact hidle (by simpa [writeHazard, hreg] using hwz)
            cases r with
            | cfg => exact .wroteCfg v (hi rfl)
            | pageSize => exact .wrotePageSize v (hi rfl)
            | blockSize => exact .wroteBlockSize v (hi rfl)
            | cmd => exact .issued v hreset (hi rfl)
            | _ => exact .nothing
        | ibuf =>
          exact .wroteIbuf off _ (hidle rfl)
            (by rw [busBytes_length (by decide) hw]; exact hin)
        | obuf =>
          exact .wroteObuf off _ (hidle rfl)
            (by rw [busBytes_length (by decide) hw]; exact hin)

/-- A HOST move that has a step. -/
theorem hostMove_did {m : HostMove} {s t : State} (h : hostMove m s = .next t) : HostDid s t := by
  cases m with
  | access a => exact hostAccess_did h
  | readAt addr w =>
    simp only [hostMove] at h
    split at h
    · exact hostAccess_did h
    · cases h
  | writeAt addr w v =>
    simp only [hostMove] at h
    split at h
    · exact hostAccess_did h
    · cases h
  | wait =>
    simp only [hostMove, hostWait] at h
    split at h
    · cases h
    · next hn =>
      cases h
      have hr := (refusesAt_none hn).1
      cases hb : s.busy
      · exact .gave _ hr
      · exact .polled hr hb
  | assertReset => cases h; exact .assertedReset
  | releaseReset => cases h; exact .releasedReset

/-- A HOST step that has a step: nothing, or one move from the list of moves still to be made. -/
theorem hostStep_did {s t : State} (h : hostStep s = .next t) :
    t = s ∨ ∃ m rest, s.hostTodo = m :: rest ∧ hostMove m (s.setTodo rest) = .next t := by
  unfold hostStep at h
  split at h
  · cases h; exact .inl rfl
  · next m rest hm => exact .inr ⟨m, rest, hm, h⟩

/-- A step of the machine (00_scope.md R5): the ENGINE's, or the HOST's after the count of HOST steps
to come went down. -/
theorem step_cases {s t : State} (h : step s = .next t) :
    (∃ w, s.resetLine = false ∧ s.pending = some w ∧ s.delay = 0 ∧ engineStep w s = .next t) ∨
    (∃ w n, s.resetLine = false ∧ s.pending = some w ∧ s.delay = n + 1 ∧
      hostStep (s.setDelay n) = .next t) ∨
    ((s.resetLine = true ∨ s.pending = none) ∧ hostStep s = .next t) := by
  unfold step nextStep at h
  split at h
  · next hr => exact .inr (.inr ⟨.inl hr, h⟩)
  · next hr =>
    have hr' : s.resetLine = false := by simpa using hr
    split at h
    · next hp => exact .inr (.inr ⟨.inr hp, h⟩)
    · next w hp =>
      split at h
      · next hd => exact .inl ⟨w, hr', hp, hd, h⟩
      · next n hd => exact .inr (.inl ⟨w, n, hr', hp, hd, h⟩)

end Sys2Proof.Machine
end

