-- ==== Sys2Proof/Laws/Decode.lean ====
section
/-! SUPPORT. The opcode map as facts about the fields of a word: what each mask keeps, which row a word
selects, and the fields of each format. -/

namespace Sys2Proof

/-- What each mask of the opcode map keeps (30_encoding.md R83). -/
theorem mask_keeps_8 (w : Word) : w &&& (0xFF000000 : Word) = w.extractLsb' 24 8 ++ 0#24 := by
  apply BitVec.eq_of_getLsbD_eq
  intro i hi
  rw [BitVec.getLsbD_and, BitVec.getLsbD_append]
  interval_cases i <;> simp

theorem mask_keeps_16 (w : Word) : w &&& (0xFFFF0000 : Word) = w.extractLsb' 16 16 ++ 0#16 := by
  apply BitVec.eq_of_getLsbD_eq
  intro i hi
  rw [BitVec.getLsbD_and, BitVec.getLsbD_append]
  interval_cases i <;> simp

theorem mask_keeps_24 (w : Word) : w &&& (0xFFFFFF00 : Word) = w.extractLsb' 8 24 ++ 0#8 := by
  apply BitVec.eq_of_getLsbD_eq
  intro i hi
  rw [BitVec.getLsbD_and, BitVec.getLsbD_append]
  interval_cases i <;> simp

theorem mask_keeps_28 (w : Word) : w &&& (0xFFFFFFF0 : Word) = w.extractLsb' 4 28 ++ 0#4 := by
  apply BitVec.eq_of_getLsbD_eq
  intro i hi
  rw [BitVec.getLsbD_and, BitVec.getLsbD_append]
  interval_cases i <;> simp

theorem mask_keeps_32 (w : Word) : w &&& (0xFFFFFFFF : Word) = w := by
  apply BitVec.eq_of_getLsbD_eq
  intro i hi
  rw [BitVec.getLsbD_and]
  interval_cases i <;> simp

/-- Every row tests the whole opcode byte. -/
theorem mask_opcode : ∀ r ∈ rows, r.mask.extractLsb' 24 8 = 0xFF#8 := by decide

/-- A row selects only words of its own opcode. -/
theorem opcode_of_selects {r : Row} {w : Word} (hr : r ∈ rows) (h : r.selects w = true) :
    w.extractLsb' 24 8 = r.value.extractLsb' 24 8 := by
  have h1 : w &&& r.mask = r.value := by simpa [Row.selects] using h
  have h2 := mask_opcode r hr
  rw [← h1, BitVec.extractLsb'_and, h2]
  apply BitVec.eq_of_getLsbD_eq
  intro i hi
  rw [BitVec.getLsbD_and]
  interval_cases i <;> simp

/-- The opcode names the row: no two rows share one. -/
theorem row_of_opcode : ∀ r ∈ rows, ∀ r' ∈ rows,
    r.value.extractLsb' 24 8 = r'.value.extractLsb' 24 8 → r = r' := by decide

/-- A word that some row selects is decoded by that row. -/
theorem decode_of_selects {r : Row} {w : Word} (hr : r ∈ rows) (h : r.selects w = true) :
    decode w = .ok (operands r.op w) := by
  have hs : ∃ r', rows.find? (fun r => r.selects w) = some r' := by
    cases hf : rows.find? (fun r => r.selects w) with
    | some r' => exact ⟨r', rfl⟩
    | none => exact absurd h (List.find?_eq_none.1 hf r hr)
  obtain ⟨r', hf⟩ := hs
  have h1 : r' ∈ rows := List.mem_of_find?_eq_some hf
  have h2 : r'.selects w = true := by simpa using List.find?_some (p := fun r : Row => r.selects w) hf
  have h3 : r' = r := row_of_opcode r' h1 r hr
    ((opcode_of_selects h1 h2).symm.trans (opcode_of_selects hr h))
  unfold decode
  rw [hf, h3]

/-- A word that no row selects is rejected. -/
theorem decode_of_not_selects {w : Word} (h : ∀ r ∈ rows, r.selects w = false) :
    ∃ e, decode w = .error e := by
  have hf : rows.find? (fun r => r.selects w) = none :=
    List.find?_eq_none.2 (fun r hr => by simp [h r hr])
  unfold decode
  rw [hf]
  by_cases ha : rows.any (fun r => r.value.extractLsb' 24 8 == w.extractLsb' 24 8) = true
  · exact ⟨.reservedBits, by simp [ha]⟩
  · exact ⟨.undefinedOpcode, by simp [ha]⟩

/-- The fields of the formats (R81). -/
@[simp] theorem opcode_formatN (op : BitVec 8) : (formatN op).extractLsb' 24 8 = op := by
  apply BitVec.eq_of_getLsbD_eq
  intro i hi
  rw [formatN, BitVec.getLsbD_extractLsb', BitVec.getLsbD_append]
  interval_cases i <;> simp

@[simp] theorem opcode_formatR (op a b : BitVec 8) : (formatR op a b).extractLsb' 24 8 = op := by
  apply BitVec.eq_of_getLsbD_eq
  intro i hi
  rw [formatR, BitVec.getLsbD_extractLsb', BitVec.getLsbD_append, BitVec.getLsbD_append,
    BitVec.getLsbD_append]
  interval_cases i <;> simp

@[simp] theorem opcode_formatU (op a : BitVec 8) : (formatU op a).extractLsb' 24 8 = op := by
  apply BitVec.eq_of_getLsbD_eq
  intro i hi
  rw [formatU, BitVec.getLsbD_extractLsb', BitVec.getLsbD_append, BitVec.getLsbD_append]
  interval_cases i <;> simp

@[simp] theorem opcode_formatS (op : BitVec 8) (s : BitVec 4) :
    (formatS op s).extractLsb' 24 8 = op := by
  apply BitVec.eq_of_getLsbD_eq
  intro i hi
  rw [formatS, BitVec.getLsbD_extractLsb', BitVec.getLsbD_append, BitVec.getLsbD_append]
  interval_cases i <;> simp

@[simp] theorem opcode_formatX (op : BitVec 8) (k : BitVec 24) :
    (formatX op k).extractLsb' 24 8 = op := by
  apply BitVec.eq_of_getLsbD_eq
  intro i hi
  rw [formatX, BitVec.getLsbD_extractLsb', BitVec.getLsbD_append]
  interval_cases i <;> simp

/-- What is above the operands of each format (R81). -/
theorem high_formatR (op a b : BitVec 8) : (formatR op a b).extractLsb' 16 16 = op ++ 0#8 := by
  apply BitVec.eq_of_getLsbD_eq
  intro i hi
  rw [formatR, BitVec.getLsbD_extractLsb', BitVec.getLsbD_append, BitVec.getLsbD_append,
    BitVec.getLsbD_append, BitVec.getLsbD_append]
  interval_cases i <;> simp

theorem high_formatU (op a : BitVec 8) : (formatU op a).extractLsb' 8 24 = op ++ 0#16 := by
  apply BitVec.eq_of_getLsbD_eq
  intro i hi
  rw [formatU, BitVec.getLsbD_extractLsb', BitVec.getLsbD_append, BitVec.getLsbD_append,
    BitVec.getLsbD_append]
  interval_cases i <;> simp

theorem high_formatS (op : BitVec 8) (s : BitVec 4) :
    (formatS op s).extractLsb' 4 28 = op ++ 0#20 := by
  apply BitVec.eq_of_getLsbD_eq
  intro i hi
  rw [formatS, BitVec.getLsbD_extractLsb', BitVec.getLsbD_append, BitVec.getLsbD_append,
    BitVec.getLsbD_append]
  interval_cases i <;> simp

end Sys2Proof
end

