-- ==== Sys2Proof/Laws/Engine.lean ====
section
/-! SUPPORT. What a command can do to the state, said once for all of them. -/

namespace Sys2Proof.Machine

/-- A command's outcome before its completion (43_control.md R182): the state with its writes, or the
error that ends it. -/
def outcome (i : Instr) (s : State) : Except ErrCode State :=
  match i with
  | .nop => .ok s
  | .gfAdd a b => .ok (s.setResult (zext32 (gfAdd a b)))
  | .gfMul a b => .ok (s.setResult (zext32 (gfMul s.rom a b)))
  | .gfLog a => .ok (s.setResult (zext32 (logAt s.rom a)))
  | .gfAlog a => .ok (s.setResult (zext32 (alogAt s.rom a)))
  | .pgClr str =>
    if legalStrength str then .ok (s.setPg Cells.zero 0 str) else .error .cfgBadStrength
  | .pgByte d =>
    if s.pgcnt = 128 then .error .pgOverrun
    else .ok (s.setPg (pgStep s.rom s.params s.acc d s.pgstr) (s.pgcnt + 1) s.pgstr)
  | .pgPar =>
    if s.pgcnt = 128 then .ok (s.setResult (pack s.acc s.pgstr)) else .error .pgIncomplete
  | .pgChunk k =>
    if s.params.maxBlockSize < chunkOffset k + 128 then .error .range
    else .ok (s.pgChunk (chunkOffset k))
  | .asmPage k => match checkCfg s with
    | .error c => .error c
    | .ok l => if l.pages ≤ pageIndex k then .error .range else .ok (s.assemblePage l (pageIndex k))
  | .asmBlock => match checkCfg s with
    | .error c => .error c
    | .ok l => .ok (s.assemblePages l l.pages)

/-- Every command completes with its outcome (R182). -/
theorem exec_eq (i : Instr) (s : State) : exec i s = .next (s.complete (outcome i s)) := by
  cases i <;> rfl

/-- What a command without an error may have written (R26 to R29, R37, R41, R42, R76). -/
inductive Writes (s : State) : State → Prop
  | nothing : Writes s s
  | result (v : Word) : Writes s (s.setResult v)
  | cleared (str : BitVec 4) (h : str = 3 ∨ str = 4) : Writes s (s.setPg Cells.zero 0 str)
  | fed (d : Byte) (h : s.pgcnt ≠ 128) :
    Writes s (s.setPg (pgStep s.rom s.params s.acc d s.pgstr) (s.pgcnt + 1) s.pgstr)
  | chunk (off : Nat) : Writes s (s.pgChunk off)
  | page (l : Layout) (i : Nat) (hl : CheckedLayout s l) (h : i < l.pages) :
    Writes s (s.assemblePage l i)
  | block (l : Layout) (hl : CheckedLayout s l) : Writes s (s.assemblePages l l.pages)

/-- The outcome of a command without an error. -/
theorem writes_of_outcome_ok {i : Instr} {s t : State} (h : outcome i s = .ok t) : Writes s t := by
  cases i with
  | nop => cases h; exact .nothing
  | gfAdd a b => cases h; exact .result _
  | gfMul a b => cases h; exact .result _
  | gfLog a => cases h; exact .result _
  | gfAlog a => cases h; exact .result _
  | pgClr str =>
    simp only [outcome] at h
    split at h
    · next hl => cases h; exact .cleared str (by simpa [legalStrength] using hl)
    · cases h
  | pgByte d =>
    simp only [outcome] at h
    split at h
    · cases h
    · next hc => cases h; exact .fed d hc
  | pgPar =>
    simp only [outcome] at h
    split at h
    · cases h; exact .result _
    · cases h
  | pgChunk k =>
    simp only [outcome] at h
    split at h
    · cases h
    · cases h; exact .chunk _
  | asmPage k =>
    simp only [outcome] at h
    split at h
    · cases h
    · next l hl =>
      split at h
      · cases h
      · next hk => cases h; exact .page l _ (checkedLayout_of_ok hl) (by omega)
  | asmBlock =>
    simp only [outcome] at h
    split at h
    · cases h
    · next l hl => cases h; exact .block l (checkedLayout_of_ok hl)

/-- A command either raises one error, or completes with one of the writes above. -/
theorem exec_cases {i : Instr} {s t : State} (h : exec i s = .next t) :
    (∃ c, outcome i s = .error c ∧ t = s.raise c) ∨
    (∃ u, outcome i s = .ok u ∧ Writes s u ∧ t = u.succeed) := by
  rw [exec_eq] at h
  cases ho : outcome i s with
  | error c => rw [ho] at h; cases h; exact .inl ⟨c, rfl, rfl⟩
  | ok u => rw [ho] at h; cases h; exact .inr ⟨u, rfl, writes_of_outcome_ok ho, rfl⟩

/-- The fields that no command writes. -/
structure CommandKeeps (s t : State) : Prop where
  params : t.params = s.params
  rom : t.rom = s.rom
  ibuf : t.ibuf = s.ibuf
  cfg : t.cfg = s.cfg
  pageSize : t.pageSize = s.pageSize
  blockSize : t.blockSize = s.blockSize
  resetLine : t.resetLine = s.resetLine
  delay : t.delay = s.delay
  hostTodo : t.hostTodo = s.hostTodo
  hostGot : t.hostGot = s.hostGot

theorem State.AsmFrame.keeps {s t : State} (h : s.AsmFrame t) : CommandKeeps s t := by
  rw [h]; exact ⟨rfl, rfl, rfl, rfl, rfl, rfl, rfl, rfl, rfl, rfl⟩

theorem Writes.keeps {s t : State} (h : Writes s t) : CommandKeeps s t := by
  cases h with
  | page l i hl hi => exact (State.assemblePage_frame s l i).keeps
  | block l hl => exact (State.assemblePages_frame s l _).keeps
  | _ => exact ⟨rfl, rfl, rfl, rfl, rfl, rfl, rfl, rfl, rfl, rfl⟩

/-- The ENGINE's step either runs the decoded command or ends the word as illegal (R182, R85). -/
theorem engineStep_cases {w : Word} {s t : State} (h : engineStep w s = .next t) :
    (∃ i, decode w = .ok i ∧ exec i s = .next t) ∨ t = s.raise .illegalCmd := by
  unfold engineStep at h
  cases hd : decode w with
  | ok i => rw [hd] at h; exact .inl ⟨i, rfl, h⟩
  | error e => rw [hd] at h; cases h; exact .inr rfl

end Sys2Proof.Machine
end

