-- ==== Sys2Proof/Laws/Field.lean ====
section
/-! SUPPORT. The ring laws of `fieldMul` (multiplication modulo GF_POLY in the polynomial basis, 00_scope.md
R11), for every modulus. -/

namespace Sys2Proof.Machine

variable (p : BitVec 9)

theorem byte_xor_left_comm (a b c : Byte) : a ^^^ (b ^^^ c) = b ^^^ (a ^^^ c) := by
  rw [← BitVec.xor_assoc, BitVec.xor_comm a b, BitVec.xor_assoc]

theorem xtime_xor (a b : Byte) : xtime p (a ^^^ b) = xtime p a ^^^ xtime p b := by
  have hm : (a ^^^ b).msb = (a.msb ^^ b.msb) := BitVec.msb_xor
  unfold xtime
  rw [hm, BitVec.shiftLeft_xor_distrib]
  cases a.msb <;> cases b.msb <;> simp [BitVec.xor_assoc, BitVec.xor_comm, byte_xor_left_comm]

@[simp] theorem xtime_zero : xtime p 0#8 = 0#8 := by simp [xtime]

theorem fieldMulTop_xor_left (a a' b : Byte) (n : Nat) :
    fieldMulTop p (a ^^^ a') b n = fieldMulTop p a b n ^^^ fieldMulTop p a' b n := by
  induction n with
  | zero => simp [fieldMulTop]
  | succ n ih =>
    simp only [fieldMulTop, ih, xtime_xor]
    cases b.getLsbD (7 - n) <;> simp [BitVec.xor_assoc, BitVec.xor_comm, byte_xor_left_comm]

theorem fieldMulTop_xor_right (a b b' : Byte) (n : Nat) :
    fieldMulTop p a (b ^^^ b') n = fieldMulTop p a b n ^^^ fieldMulTop p a b' n := by
  induction n with
  | zero => simp [fieldMulTop]
  | succ n ih =>
    simp only [fieldMulTop, ih, xtime_xor, BitVec.getLsbD_xor]
    cases b.getLsbD (7 - n) <;> cases b'.getLsbD (7 - n) <;>
      simp [BitVec.xor_assoc, BitVec.xor_comm, byte_xor_left_comm]

theorem fieldMulTop_xtime (a b : Byte) (n : Nat) :
    fieldMulTop p (xtime p a) b n = xtime p (fieldMulTop p a b n) := by
  induction n with
  | zero => simp [fieldMulTop]
  | succ n ih =>
    simp only [fieldMulTop, ih, xtime_xor]
    cases b.getLsbD (7 - n) <;> simp

/-- Multiplication distributes over addition on the left. -/
theorem fieldMul_xor_left (a a' b : Byte) :
    fieldMul p (a ^^^ a') b = fieldMul p a b ^^^ fieldMul p a' b := fieldMulTop_xor_left p a a' b 8

/-- Multiplication distributes over addition on the right. -/
theorem fieldMul_xor_right (a b b' : Byte) :
    fieldMul p a (b ^^^ b') = fieldMul p a b ^^^ fieldMul p a b' := fieldMulTop_xor_right p a b b' 8

theorem fieldMul_xtime_left (a b : Byte) : fieldMul p (xtime p a) b = xtime p (fieldMul p a b) :=
  fieldMulTop_xtime p a b 8

@[simp] theorem fieldMul_zero_left (b : Byte) : fieldMul p 0#8 b = 0#8 := by
  have h := fieldMul_xor_left p 0#8 0#8 b
  simpa using h

@[simp] theorem fieldMul_zero_right (a : Byte) : fieldMul p a 0#8 = 0#8 := by
  have h := fieldMul_xor_right p a 0#8 0#8
  simpa using h

/-- A byte is the sum of its bits, each times its power of x. -/
theorem byte_eq_bits (b : Byte) : b =
    (if b.getLsbD 0 then 0x01 else 0) ^^^ (if b.getLsbD 1 then 0x02 else 0)
      ^^^ (if b.getLsbD 2 then 0x04 else 0) ^^^ (if b.getLsbD 3 then 0x08 else 0)
      ^^^ (if b.getLsbD 4 then 0x10 else 0) ^^^ (if b.getLsbD 5 then 0x20 else 0)
      ^^^ (if b.getLsbD 6 then 0x40 else 0) ^^^ (if b.getLsbD 7 then 0x80 else 0) := by
  revert b; decide +kernel

/-- A property that holds of 0 and of the powers of x and passes to sums holds of every byte. -/
theorem byte_induction {P : Byte → Prop} (h0 : P 0) (hx : ∀ b b', P b → P b' → P (b ^^^ b'))
    (h1 : ∀ i, i < 8 → P (1#8 <<< i)) (b : Byte) : P b := by
  have hb : ∀ (c : Bool) (i : Nat) (v : Byte), i < 8 → v = 1#8 <<< i → P (if c then v else 0) := by
    intro c i v hi hv
    cases c
    · exact h0
    · rw [hv]; exact h1 i hi
  rw [byte_eq_bits b]
  refine hx _ _ (hx _ _ (hx _ _ (hx _ _ (hx _ _ (hx _ _ (hx _ _ ?_ ?_) ?_) ?_) ?_) ?_) ?_) ?_
  · exact hb _ 0 _ (by decide) (by decide)
  · exact hb _ 1 _ (by decide) (by decide)
  · exact hb _ 2 _ (by decide) (by decide)
  · exact hb _ 3 _ (by decide) (by decide)
  · exact hb _ 4 _ (by decide) (by decide)
  · exact hb _ 5 _ (by decide) (by decide)
  · exact hb _ 6 _ (by decide) (by decide)
  · exact hb _ 7 _ (by decide) (by decide)

/-- Multiplication by x^i on the right is `i` times multiplication by x. -/
theorem fieldMul_pow_right (a : Byte) (i : Nat) (hi : i < 8) :
    fieldMul p a (1#8 <<< i) = (xtime p)^[i] a := by
  interval_cases i <;> simp [fieldMul, fieldMulTop, Function.iterate_succ]

/-- x^i is `i` times multiplication by x from 1, below the degree of the modulus. -/
theorem iterate_xtime_one (i : Nat) (hi : i < 8) : (xtime p)^[i] 1#8 = 1#8 <<< i := by
  induction i with
  | zero => rfl
  | succ i ih =>
    have hm : (1#8 <<< i).msb = false := by
      have h7 : i < 7 := by omega
      clear ih hi
      revert i; decide
    rw [Function.iterate_succ_apply', ih (by omega), xtime, hm, BitVec.shiftLeft_add]
    simp

/-- Field multiplication is commutative, whatever the modulus. -/
theorem fieldMul_comm (a b : Byte) : fieldMul p a b = fieldMul p b a := by
  refine byte_induction (P := fun b => fieldMul p a b = fieldMul p b a) (by simp) ?_ ?_ b
  · intro b b' h h'
    rw [fieldMul_xor_right, fieldMul_xor_left, h, h']
  · intro i hi
    refine byte_induction (P := fun a => fieldMul p a (1#8 <<< i) = fieldMul p (1#8 <<< i) a)
      (by simp) ?_ ?_ a
    · intro a a' h h'
      rw [fieldMul_xor_right, fieldMul_xor_left, h, h']
    · intro j hj
      rw [fieldMul_pow_right p _ i hi, fieldMul_pow_right p _ j hj, ← iterate_xtime_one p i hi,
        ← iterate_xtime_one p j hj, ← Function.iterate_add_apply, ← Function.iterate_add_apply,
        Nat.add_comm]

theorem fieldMul_xtime_right (a b : Byte) : fieldMul p a (xtime p b) = xtime p (fieldMul p a b) := by
  rw [fieldMul_comm, fieldMul_xtime_left, fieldMul_comm]

/-- Field multiplication is associative, whatever the modulus. -/
theorem fieldMul_assoc (a b c : Byte) :
    fieldMul p (fieldMul p a b) c = fieldMul p a (fieldMul p b c) := by
  refine byte_induction (P := fun c => fieldMul p (fieldMul p a b) c = fieldMul p a (fieldMul p b c))
    (by simp) ?_ ?_ c
  · intro c c' h h'
    simp only [fieldMul_xor_right, h, h']
  · intro i hi
    rw [fieldMul_pow_right p _ i hi, fieldMul_pow_right p _ i hi]
    clear hi
    induction i with
    | zero => rfl
    | succ i ih => rw [Function.iterate_succ_apply', Function.iterate_succ_apply',
        fieldMul_xtime_right, ih]

/-- 1 is the neutral element. -/
@[simp] theorem fieldMul_one_right (a : Byte) : fieldMul p a 1#8 = a :=
  fieldMul_pow_right p a 0 (by decide)

@[simp] theorem fieldMul_one_left (a : Byte) : fieldMul p 1#8 a = a := by
  rw [fieldMul_comm, fieldMul_one_right]

/-- Exponents add. -/
theorem fieldPow_add (g : Byte) (m n : Nat) :
    fieldPow p g (m + n) = fieldMul p (fieldPow p g m) (fieldPow p g n) := by
  induction n with
  | zero => simp [fieldPow]
  | succ n ih => rw [Nat.add_succ, fieldPow, ih, fieldPow, fieldMul_assoc]

/-- What order 255 says. -/
theorem hasOrder255_iff (g : Byte) : hasOrder255 p g = true ↔
    fieldPow p g 255 = 1 ∧ ∀ k, 0 < k → k < 255 → fieldPow p g k ≠ 1 := by
  simp only [hasOrder255, Bool.and_eq_true, beq_iff_eq, List.all_eq_true, List.mem_range,
    bne_iff_ne, ne_eq]
  refine and_congr_right fun _ => ⟨fun h k h0 hk => ?_, fun h k hk => h (k + 1) (by omega) (by omega)⟩
  have := h (k - 1) (by omega)
  rwa [Nat.sub_add_cancel h0] at this

end Sys2Proof.Machine
end

