-- ==== Sys2Proof/Laws/HostProgram.lean ====
section
/-! SUPPORT. What a read and a write of a register, and an access to a buffer, do when the block is not
in reset: one lemma for each, so that no later proof unfolds the checks of an access. -/

namespace Sys2Proof.Machine

@[simp] theorem regAt_regOffset (r : Reg) : regAt (regOffset r) = some r := by cases r <;> rfl

/-- A mapped offset is its register's own (10_state.md R31). -/
theorem regOffset_of_regAt {off : Nat} {r : Reg} (h : regAt off = some r) : off = regOffset r := by
  unfold regAt at h
  repeat' split at h
  all_goals first
    | (cases h; assumption)
    | cases h

/-- A register's own offset is an access of the interface (R61 to R63). -/
theorem refusesAt_reg {s : State} (hr : s.resetLine = false) (r : Reg) :
    s.refusesAt .reg (regOffset r) 32 = none := by
  cases r <;> simp [State.refusesAt, hr, widthAllowed, aligned, regOffset, regAt, inRange, spaceSize]

/-- `RD reg` outside reset. -/
theorem hostMove_rd {s : State} (hr : s.resetLine = false) (r : Reg) :
    hostMove (rd r) s = .next (s.deliver (s.readReg r)) := by
  simp [hostMove, rd, hostAccess, State.refuses, refusesAt_reg hr, State.performs, State.hostRead]

/-- `WR reg, v` outside reset. -/
theorem hostMove_wr {s : State} (hr : s.resetLine = false) (r : Reg) (v : Word) :
    hostMove (wr r v) s
      = if s.busy && regWriteHazard r then .refused .hostWriteWhileBusy else .next (s.writeReg r v) := by
  simp only [hostMove, wr, hostAccess, State.refuses, refusesAt_reg hr, writeHazard, regAt_regOffset,
    State.performs, State.hostWrite]
  cases s.busy && regWriteHazard r <;> rfl

/-- A host access has a step exactly when nothing refuses it. -/
theorem hostAccess_next_iff (a : Access) (s : State) :
    (∃ t, hostAccess a s = .next t) ↔ s.refuses a = none := by
  unfold hostAccess
  cases s.refuses a <;> simp

theorem hostAccess_refused_iff (a : Access) (s : State) :
    (∃ r, hostAccess a s = .refused r) ↔ s.refuses a ≠ none := by
  unfold hostAccess
  cases s.refuses a <;> simp

/-- A buffer offset that the interface allows (R61 to R63). -/
theorem refusesAt_buffer {s : State} (hr : s.resetLine = false) {sp : Space} (hsp : sp ≠ .reg)
    {off w : Nat} (hw : w = 8 ∨ (w = 32 ∧ off % 4 = 0))
    (hin : off + w / 8 ≤ spaceSize s.params sp) : s.refusesAt sp off w = none := by
  cases sp with
  | reg => exact absurd rfl hsp
  | ibuf =>
    rcases hw with rfl | ⟨rfl, ha⟩ <;>
      simp_all [State.refusesAt, widthAllowed, aligned, inRange, spaceSize]
  | obuf =>
    rcases hw with rfl | ⟨rfl, ha⟩ <;>
      simp_all [State.refusesAt, widthAllowed, aligned, inRange, spaceSize]

/-- A buffer read outside reset. -/
theorem hostMove_readBuffer {s : State} (hr : s.resetLine = false) {sp : Space} (hsp : sp ≠ .reg)
    {off w : Nat} (hw : w = 8 ∨ (w = 32 ∧ off % 4 = 0))
    (hin : off + w / 8 ≤ spaceSize s.params sp) :
    hostMove (.access (.read sp off w)) s = .next (s.deliver (s.hostRead sp off w)) := by
  simp [hostMove, hostAccess, State.refuses, refusesAt_buffer hr hsp hw hin, State.performs]

/-- A buffer write while idle and outside reset. -/
theorem hostMove_writeBuffer {s : State} (hr : s.resetLine = false) (hb : s.busy = false) {sp : Space}
    (hsp : sp ≠ .reg) {off w : Nat} (hw : w = 8 ∨ (w = 32 ∧ off % 4 = 0))
    (hin : off + w / 8 ≤ spaceSize s.params sp) (v : Word) :
    hostMove (.access (.write sp off w v)) s = .next (s.hostWrite sp off w v) := by
  simp [hostMove, hostAccess, State.refuses, refusesAt_buffer hr hsp hw hin, hb, State.performs]

/-- One poll of WAIT outside reset: it goes on while BUSY, and is done otherwise. -/
theorem hostWait_eq {s : State} (hr : s.resetLine = false) :
    hostWait s = .next ((if s.busy then s.setTodo (.wait :: s.hostTodo) else s).deliver s.status) := by
  unfold hostWait
  rw [show s.refusesAt .reg 0x10 32 = none from refusesAt_reg hr .status]

end Sys2Proof.Machine
end

