-- ==== Sys2Proof/Laws/Pages.lean ====
section
/-! SUPPORT. Which OBUF bytes the Layout Assembler's operations leave, byte by byte: page copy, OOB
fill, chunk slots, one page, all pages (42_layout_assembler.md R155 to R161). -/

namespace Sys2Proof.Machine

/-- OBUF after a page copy (R155). -/
theorem State.copyPage_byteAt (s : State) (l : Layout) (i a : Nat) :
    (s.copyPage l i).obuf.byteAt a
      = if l.outAt i ≤ a ∧ a < l.outAt i + l.page then
          some (s.ibuf.readByte (l.rawAt i + (a - l.outAt i)) (s.draws + (a - l.outAt i)))
        else s.obuf.byteAt a := by
  show (s.obuf.store (l.outAt i) (s.ibuf.readBytes (l.rawAt i) l.page s.draws)).byteAt a = _
  rw [byteAt_store, Memory.readBytes_length]
  split
  · rw [List.getElem?_eq_getElem (by rw [Memory.readBytes_length]; omega), Memory.readBytes_getElem]
  · rfl

/-- OBUF after an OOB fill (R156). -/
theorem State.fillOob_byteAt (s : State) (l : Layout) (i a : Nat) (b : Byte) :
    (s.fillOob l i b).obuf.byteAt a
      = if l.oobAt i ≤ a ∧ a < l.oobAt i + l.oob then some b else s.obuf.byteAt a := by
  show (s.obuf.store (l.oobAt i) (List.replicate l.oob b)).byteAt a = _
  rw [byteAt_store, List.length_replicate]
  split
  · rw [List.getElem?_replicate, if_pos (by omega)]
  · rfl

theorem parityBytes_length (acc : Cells) {str : BitVec 4} (h : str = 3 ∨ str = 4) :
    (parityBytes acc str).length = str.toNat := by
  rcases h with rfl | rfl <;> rfl

/-- The slots 0 .. n-1 hold the parity of their chunks as a read of IBUF gives them, and no other byte
changed (R157). -/
theorem State.eccSlots_byteAt (s : State) (l : Layout) (i : Nat) {str : BitVec 4}
    (h : str = 3 ∨ str = 4) (n : Nat) :
    (∀ a, (a < l.oobAt i ∨ l.oobAt i + str.toNat * n ≤ a) →
      (s.eccSlots l i str n).obuf.byteAt a = s.obuf.byteAt a) ∧
    ∀ k, k < n → ∃ d, ∀ j, j < str.toNat →
      (s.eccSlots l i str n).obuf.byteAt (l.oobAt i + str.toNat * k + j)
        = (chunkParity s.rom s.params (s.ibuf.readBytes (l.rawAt i + 128 * k) 128 d) str)[j]? := by
  induction n with
  | zero => exact ⟨fun _ _ => rfl, fun k hk => absurd hk (by omega)⟩
  | succ n ih =>
    obtain ⟨ih1, ih2⟩ := ih
    have hk := (State.eccSlots_frame s l i str n).keeps
    have e : ∀ a, (s.eccSlots l i str (n + 1)).obuf.byteAt a
        = if l.oobAt i + str.toNat * n ≤ a ∧ a < l.oobAt i + str.toNat * n + str.toNat then
            (chunkParity s.rom s.params (s.ibuf.readBytes (l.rawAt i + 128 * n) 128
              (s.eccSlots l i str n).draws) str)[a - (l.oobAt i + str.toNat * n)]?
          else (s.eccSlots l i str n).obuf.byteAt a := by
      intro a
      show ((s.eccSlots l i str n).obuf.store _ (parityBytes (chunkAcc (s.eccSlots l i str n).rom
        (s.eccSlots l i str n).params ((s.eccSlots l i str n).ibuf.readBytes _ _ _) str) str)).byteAt a = _
      rw [byteAt_store, parityBytes_length _ h, hk.rom, hk.params, hk.ibuf]
      rfl
    have hs : str.toNat * (n + 1) = str.toNat * n + str.toNat := Nat.mul_succ _ _
    refine ⟨fun a ha => ?_, fun k hkn => ?_⟩
    · rw [e, if_neg (by omega)]
      exact ih1 a (by omega)
    · rcases Nat.lt_or_ge k n with hlt | hge
      · obtain ⟨d, hd⟩ := ih2 k hlt
        refine ⟨d, fun j hj => ?_⟩
        have : str.toNat * (k + 1) ≤ str.toNat * n := Nat.mul_le_mul_left _ hlt
        have : str.toNat * (k + 1) = str.toNat * k + str.toNat := Nat.mul_succ _ _
        rw [e, if_neg (by omega)]
        exact hd j hj
      · obtain rfl : k = n := by omega
        refine ⟨(s.eccSlots l i str k).draws, fun j hj => ?_⟩
        rw [e, if_pos (by omega), show l.oobAt i + str.toNat * k + j - (l.oobAt i + str.toNat * k) = j by omega]

/-- A chunk slot reads nothing of OBUF: from another OBUF it makes the same write into it. -/
theorem State.eccSlot_withObuf (s : State) (m : Memory) (l : Layout) (i : Nat) (str : BitVec 4) (k : Nat) :
    State.eccSlot { s with obuf := m } l i str k
      = { s.eccSlot l i str k with
          obuf := m.store (l.oobAt i + str.toNat * k) (parityBytes
            (chunkAcc s.rom s.params (s.memRead (l.rawAt i + 128 * k) 128) str) str) } := by
  simp only [State.eccSlot, State.memRead, State.drew, State.setAsmAcc, State.memWrite]

/-- In an ECC mode the slots fit the OOB region (R157). -/
theorem slots_fit {l : Layout} (h : l.page % 128 = 0) {str : BitVec 4} (hs : str = 3 ∨ str = 4) :
    str.toNat * l.chunks ≤ l.oob ∧ (str = 4 → str.toNat * l.chunks = l.oob) := by
  unfold Layout.chunks Layout.oob
  rcases hs with rfl | rfl
  · simp; omega
  · simp; omega

/-- The OOB of page `i` is written inside its region and nowhere else. -/
theorem State.oobFor_outside (s : State) (l : Layout) (i : Nat)
    (he : l.mode.isEcc = true → l.page % 128 = 0) {a : Nat}
    (ha : a < l.oobAt i ∨ l.oobAt i + l.oob ≤ a) :
    (s.oobFor l i).obuf.byteAt a = s.obuf.byteAt a := by
  have hf : ∀ b, (s.fillOob l i b).obuf.byteAt a = s.obuf.byteAt a := fun b => by
    rw [State.fillOob_byteAt, if_neg (by omega)]
  unfold State.oobFor
  cases hm : l.mode with
  | zero => exact hf _
  | ones => exact hf _
  | ecc4 =>
    have := (slots_fit (he (by rw [hm]; rfl)) (.inr rfl : (4 : BitVec 4) = 3 ∨ _)).1
    exact ((State.eccSlots_byteAt _ l i (.inr rfl) _).1 a (by omega)).trans (hf _)
  | ecc3 =>
    have := (slots_fit (he (by rw [hm]; rfl)) (.inl rfl : (3 : BitVec 4) = 3 ∨ _)).1
    exact ((State.eccSlots_byteAt _ l i (.inl rfl) _).1 a (by omega)).trans (hf _)

/-- A page is written inside its own part of OBUF and nowhere else (R160). -/
theorem State.assemblePage_outside (s : State) (l : Layout) (i : Nat)
    (he : l.mode.isEcc = true → l.page % 128 = 0) {a : Nat}
    (ha : a < l.outAt i ∨ l.outAt i + l.page + l.oob ≤ a) :
    (s.assemblePage l i).obuf.byteAt a = s.obuf.byteAt a := by
  unfold State.assemblePage
  rw [State.oobFor_outside _ l i he (by unfold Layout.oobAt; omega), State.copyPage_byteAt,
    if_neg (by omega)]

/-- The raw bytes of an assembled page (R155). -/
theorem State.assemblePage_raw (s : State) (l : Layout) (i : Nat)
    (he : l.mode.isEcc = true → l.page % 128 = 0) {j : Nat} (hj : j < l.page) :
    (s.assemblePage l i).obuf.byteAt (l.outAt i + j)
      = some (s.ibuf.readByte (l.rawAt i + j) (s.draws + j)) := by
  unfold State.assemblePage
  rw [State.oobFor_outside _ l i he (by unfold Layout.oobAt; omega), State.copyPage_byteAt,
    if_pos (by omega), Nat.add_sub_cancel_left]

/-- The OOB of an assembled page in a fill mode (R156). -/
theorem State.assemblePage_fill (s : State) (l : Layout) (i : Nat) {b : Byte}
    (hm : (l.mode = .zero ∧ b = 0x00) ∨ (l.mode = .ones ∧ b = 0xFF)) {j : Nat} (hj : j < l.oob) :
    (s.assemblePage l i).obuf.byteAt (l.oobAt i + j) = some b := by
  unfold State.assemblePage State.oobFor
  rcases hm with ⟨hm, rfl⟩ | ⟨hm, rfl⟩ <;> rw [hm] <;>
    exact (State.fillOob_byteAt _ l i _ _).trans (if_pos (by omega))

/-- The OOB of an assembled page in an ECC mode (R156, R157): the chunk slots, then the pre-fill. -/
theorem State.assemblePage_ecc (s : State) (l : Layout) (i : Nat) {str : BitVec 4}
    (hm : (l.mode = .ecc4 ∧ str = 4) ∨ (l.mode = .ecc3 ∧ str = 3)) :
    (∀ k, k < l.chunks → ∃ d, ∀ j, j < str.toNat →
      (s.assemblePage l i).obuf.byteAt (l.oobAt i + str.toNat * k + j)
        = (chunkParity s.rom s.params (s.ibuf.readBytes (l.rawAt i + 128 * k) 128 d) str)[j]?) ∧
    ∀ j, str.toNat * l.chunks ≤ j → j < l.oob →
      (s.assemblePage l i).obuf.byteAt (l.oobAt i + j) = some 0xFF := by
  have hs : str = 3 ∨ str = 4 := by rcases hm with ⟨-, h⟩ | ⟨-, h⟩ <;> simp [h]
  have e : s.assemblePage l i = ((s.copyPage l i).fillOob l i 0xFF).eccSlots l i str l.chunks := by
    unfold State.assemblePage State.oobFor
    rcases hm with ⟨hm, rfl⟩ | ⟨hm, rfl⟩ <;> rw [hm]
  obtain ⟨h1, h2⟩ := State.eccSlots_byteAt ((s.copyPage l i).fillOob l i 0xFF) l i hs l.chunks
  rw [e]
  refine ⟨h2, fun j hj hjo => ?_⟩
  rw [h1 _ (by omega), State.fillOob_byteAt, if_pos (by omega)]

/-- Pages 0 .. n-1: page `i` of them is as `assemblePage` leaves it, from a state with the same IBUF,
parameters and ROMs, and nothing above them changed (R161). -/
theorem State.assemblePages_byteAt (s : State) (l : Layout)
    (he : l.mode.isEcc = true → l.page % 128 = 0) (n : Nat) :
    (∀ a, l.outAt n ≤ a → (s.assemblePages l n).obuf.byteAt a = s.obuf.byteAt a) ∧
    ∀ i, i < n → ∃ u, CommandKeeps s u ∧ ∀ a, l.outAt i ≤ a → a < l.outAt (i + 1) →
      (s.assemblePages l n).obuf.byteAt a = (u.assemblePage l i).obuf.byteAt a := by
  have hout : ∀ i, l.outAt (i + 1) = l.outAt i + l.page + l.oob := fun i => by
    simp only [Layout.outAt, Nat.succ_mul, Nat.add_assoc]
  have hmono : ∀ i m, i ≤ m → l.outAt i ≤ l.outAt m := fun i m h => Nat.mul_le_mul_right _ h
  induction n with
  | zero => exact ⟨fun _ _ => rfl, fun i hi => absurd hi (by omega)⟩
  | succ n ih =>
    obtain ⟨ih1, ih2⟩ := ih
    have ho := hout n
    refine ⟨fun a ha => ?_, fun i hi => ?_⟩
    · exact ((s.assemblePages l n).assemblePage_outside l n he (by omega)).trans (ih1 a (by omega))
    · rcases Nat.lt_or_ge i n with hlt | hge
      · obtain ⟨u, hu, h⟩ := ih2 i hlt
        have := hmono (i + 1) n hlt
        exact ⟨u, hu, fun a h1 h2 =>
          ((s.assemblePages l n).assemblePage_outside l n he (by omega)).trans (h a h1 h2)⟩
      · obtain rfl : i = n := by omega
        exact ⟨s.assemblePages l i, (State.assemblePages_frame s l i).keeps, fun a _ _ => rfl⟩

end Sys2Proof.Machine
end

