-- ==== Sys2Proof/Laws/PerInstr.lean ====
section
/-! SUPPORT. The family of facts that every command's syntax has, one lemma per constructor. -/

namespace Sys2Proof.Laws

/-- The opcode-map row of a command (30_encoding.md R83). -/
def opOf : Instr → Op
  | .nop => .nop
  | .gfAdd _ _ => .gfAdd
  | .gfMul _ _ => .gfMul
  | .gfLog _ => .gfLog
  | .gfAlog _ => .gfAlog
  | .pgClr _ => .pgClr
  | .pgByte _ => .pgByte
  | .pgPar => .pgPar
  | .pgChunk _ => .pgChunk
  | .asmPage _ => .asmPage
  | .asmBlock => .asmBlock

end Sys2Proof.Laws

namespace Sys2Proof.Laws.EncodedRow

/-- The encoded word is selected by the row of its own command, and by no other row (R83). -/
def Statement (i : Instr) : Prop :=
  ∀ r ∈ rows, r.selects (encode i) = true ↔ r.op = opOf i

/-- It suffices that the command's own row selects the word. -/
theorem of_own_row {i : Instr} {own : Row} (hown : own ∈ rows) (hop : own.op = opOf i)
    (hsel : own.selects (encode i) = true) (huniq : ∀ r ∈ rows, r.op = own.op → r = own) :
    Statement i := by
  intro r hr
  constructor
  · intro h
    have e := row_of_opcode r hr own hown
      ((opcode_of_selects hr h).symm.trans (opcode_of_selects hown hsel))
    rw [e, hop]
  · intro h
    rw [huniq r hr (h.trans hop.symm)]
    exact hsel

theorem nop : Statement .nop :=
  of_own_row (own := ⟨.nop, 0xFFFFFFFF, 0x00000000⟩) (by decide) rfl (by decide) (by decide)

theorem gfAdd (a b : Byte) : Statement (.gfAdd a b) :=
  of_own_row (own := ⟨.gfAdd, 0xFFFF0000, 0x01000000⟩) (by decide) rfl
    (by simp only [Row.selects, encode, mask_keeps_16, high_formatR]; decide) (by decide)

theorem gfMul (a b : Byte) : Statement (.gfMul a b) :=
  of_own_row (own := ⟨.gfMul, 0xFFFF0000, 0x02000000⟩) (by decide) rfl
    (by simp only [Row.selects, encode, mask_keeps_16, high_formatR]; decide) (by decide)

theorem gfLog (a : Byte) : Statement (.gfLog a) :=
  of_own_row (own := ⟨.gfLog, 0xFFFFFF00, 0x03000000⟩) (by decide) rfl
    (by simp only [Row.selects, encode, mask_keeps_24, high_formatU]; decide) (by decide)

theorem gfAlog (a : Byte) : Statement (.gfAlog a) :=
  of_own_row (own := ⟨.gfAlog, 0xFFFFFF00, 0x04000000⟩) (by decide) rfl
    (by simp only [Row.selects, encode, mask_keeps_24, high_formatU]; decide) (by decide)

theorem pgClr (s : BitVec 4) : Statement (.pgClr s) :=
  of_own_row (own := ⟨.pgClr, 0xFFFFFFF0, 0x10000000⟩) (by decide) rfl
    (by simp only [Row.selects, encode, mask_keeps_28, high_formatS]; decide) (by decide)

theorem pgByte (d : Byte) : Statement (.pgByte d) :=
  of_own_row (own := ⟨.pgByte, 0xFFFFFF00, 0x11000000⟩) (by decide) rfl
    (by simp only [Row.selects, encode, mask_keeps_24, high_formatU]; decide) (by decide)

theorem pgPar : Statement .pgPar :=
  of_own_row (own := ⟨.pgPar, 0xFFFFFFFF, 0x12000000⟩) (by decide) rfl (by decide) (by decide)

theorem pgChunk (k : BitVec 24) : Statement (.pgChunk k) :=
  of_own_row (own := ⟨.pgChunk, 0xFF000000, 0x13000000⟩) (by decide) rfl
    (by simp only [Row.selects, encode, mask_keeps_8, opcode_formatX]; decide) (by decide)

theorem asmPage (k : BitVec 24) : Statement (.asmPage k) :=
  of_own_row (own := ⟨.asmPage, 0xFF000000, 0x20000000⟩) (by decide) rfl
    (by simp only [Row.selects, encode, mask_keeps_8, opcode_formatX]; decide) (by decide)

theorem asmBlock : Statement .asmBlock :=
  of_own_row (own := ⟨.asmBlock, 0xFFFFFFFF, 0x21000000⟩) (by decide) rfl (by decide) (by decide)

end Sys2Proof.Laws.EncodedRow
end

