-- ==== Sys2Proof/Laws/Pg.lean ====
section
/-! SUPPORT. The kernel's cells, a chunk byte by byte, and the ROM entries that legal tables hold. -/

namespace Sys2Proof.Machine

/-- Strength 3 leaves ACC[3] (41_parity_generator.md R121). -/
theorem pgStep_c3 (r : Rom) (p : Params) (acc : Cells) (d : Byte) {str : BitVec 4} (h : str ≠ 4) :
    (pgStep r p acc d str).c3 = acc.c3 := by
  unfold pgStep
  rw [if_neg h]

@[simp] theorem chunkAcc_nil (r : Rom) (p : Params) (str : BitVec 4) :
    chunkAcc r p [] str = Cells.zero := rfl

/-- One more byte of a chunk is one more step (R122). -/
theorem chunkAcc_concat (r : Rom) (p : Params) (ch : List Byte) (d : Byte) (str : BitVec 4) :
    chunkAcc r p (ch ++ [d]) str = pgStep r p (chunkAcc r p ch str) d str := by
  simp [chunkAcc]

/-- A chunk of strength 3 leaves ACC[3] = 0 (R121). -/
theorem chunkAcc_c3 (r : Rom) (p : Params) (ch : List Byte) {str : BitVec 4} (h : str ≠ 4) :
    (chunkAcc r p ch str).c3 = 0 := by
  induction ch using List.reverseRecOn with
  | nil => rfl
  | append_singleton ch d ih => rw [chunkAcc_concat, pgStep_c3 r p _ d h, ih]

/-- The entries of ALOG (10_state.md R20). -/
theorem alogAt_romOf (p : Params) (e : Byte) : alogAt (romOf p) e = alogEntry p e.toNat := by
  simp [alogAt, romOf, tableOf]

/-- The entries of LOG (R21). -/
theorem logAt_romOf (p : Params) (a : Byte) :
    logAt (romOf p) a = logEntry (tableOf (alogEntry p)) p.log0 a.toNat := by
  simp [logAt, romOf, tableOf]

@[simp] theorem gfMul_zero_left (r : Rom) (b : Byte) : gfMul r 0 b = 0 := by simp [gfMul]

@[simp] theorem gfMul_zero_right (r : Rom) (a : Byte) : gfMul r a 0 = 0 := by simp [gfMul]

end Sys2Proof.Machine
end

