-- ==== Sys2Proof/Tests/Slice0.lean ====
section
/-! SUPPORT. Tests: expected results are the vectors of spec/95_test_vectors.md and the examples of the
rules, not the model's own answers. The witnesses at the end meet the hypotheses of the statements. -/

namespace Sys2Proof.Tests

open Sys2Proof Sys2Proof.Machine Sys2Proof.Claims

/-! ### The example machine (95_test_vectors.md section 2) -/

/-- ALOG under the example parameters, as section 2 prints it. -/
def exAlog : List Byte :=
  List.flatten [
    [0x01, 0x02, 0x04, 0x08, 0x10, 0x20, 0x40, 0x80, 0x1D, 0x3A, 0x74, 0xE8, 0xCD, 0x87, 0x13, 0x26],
    [0x4C, 0x98, 0x2D, 0x5A, 0xB4, 0x75, 0xEA, 0xC9, 0x8F, 0x03, 0x06, 0x0C, 0x18, 0x30, 0x60, 0xC0],
    [0x9D, 0x27, 0x4E, 0x9C, 0x25, 0x4A, 0x94, 0x35, 0x6A, 0xD4, 0xB5, 0x77, 0xEE, 0xC1, 0x9F, 0x23],
    [0x46, 0x8C, 0x05, 0x0A, 0x14, 0x28, 0x50, 0xA0, 0x5D, 0xBA, 0x69, 0xD2, 0xB9, 0x6F, 0xDE, 0xA1],
    [0x5F, 0xBE, 0x61, 0xC2, 0x99, 0x2F, 0x5E, 0xBC, 0x65, 0xCA, 0x89, 0x0F, 0x1E, 0x3C, 0x78, 0xF0],
    [0xFD, 0xE7, 0xD3, 0xBB, 0x6B, 0xD6, 0xB1, 0x7F, 0xFE, 0xE1, 0xDF, 0xA3, 0x5B, 0xB6, 0x71, 0xE2],
    [0xD9, 0xAF, 0x43, 0x86, 0x11, 0x22, 0x44, 0x88, 0x0D, 0x1A, 0x34, 0x68, 0xD0, 0xBD, 0x67, 0xCE],
    [0x81, 0x1F, 0x3E, 0x7C, 0xF8, 0xED, 0xC7, 0x93, 0x3B, 0x76, 0xEC, 0xC5, 0x97, 0x33, 0x66, 0xCC],
    [0x85, 0x17, 0x2E, 0x5C, 0xB8, 0x6D, 0xDA, 0xA9, 0x4F, 0x9E, 0x21, 0x42, 0x84, 0x15, 0x2A, 0x54],
    [0xA8, 0x4D, 0x9A, 0x29, 0x52, 0xA4, 0x55, 0xAA, 0x49, 0x92, 0x39, 0x72, 0xE4, 0xD5, 0xB7, 0x73],
    [0xE6, 0xD1, 0xBF, 0x63, 0xC6, 0x91, 0x3F, 0x7E, 0xFC, 0xE5, 0xD7, 0xB3, 0x7B, 0xF6, 0xF1, 0xFF],
    [0xE3, 0xDB, 0xAB, 0x4B, 0x96, 0x31, 0x62, 0xC4, 0x95, 0x37, 0x6E, 0xDC, 0xA5, 0x57, 0xAE, 0x41],
    [0x82, 0x19, 0x32, 0x64, 0xC8, 0x8D, 0x07, 0x0E, 0x1C, 0x38, 0x70, 0xE0, 0xDD, 0xA7, 0x53, 0xA6],
    [0x51, 0xA2, 0x59, 0xB2, 0x79, 0xF2, 0xF9, 0xEF, 0xC3, 0x9B, 0x2B, 0x56, 0xAC, 0x45, 0x8A, 0x09],
    [0x12, 0x24, 0x48, 0x90, 0x3D, 0x7A, 0xF4, 0xF5, 0xF7, 0xF3, 0xFB, 0xEB, 0xCB, 0x8B, 0x0B, 0x16],
    [0x2C, 0x58, 0xB0, 0x7D, 0xFA, 0xE9, 0xCF, 0x83, 0x1B, 0x36, 0x6C, 0xD8, 0xAD, 0x47, 0x8E, 0x01] ]

/-- LOG under the example parameters, as section 2 prints it. -/
def exLog : List Byte :=
  List.flatten [
    [0x00, 0x00, 0x01, 0x19, 0x02, 0x32, 0x1A, 0xC6, 0x03, 0xDF, 0x33, 0xEE, 0x1B, 0x68, 0xC7, 0x4B],
    [0x04, 0x64, 0xE0, 0x0E, 0x34, 0x8D, 0xEF, 0x81, 0x1C, 0xC1, 0x69, 0xF8, 0xC8, 0x08, 0x4C, 0x71],
    [0x05, 0x8A, 0x65, 0x2F, 0xE1, 0x24, 0x0F, 0x21, 0x35, 0x93, 0x8E, 0xDA, 0xF0, 0x12, 0x82, 0x45],
    [0x1D, 0xB5, 0xC2, 0x7D, 0x6A, 0x27, 0xF9, 0xB9, 0xC9, 0x9A, 0x09, 0x78, 0x4D, 0xE4, 0x72, 0xA6],
    [0x06, 0xBF, 0x8B, 0x62, 0x66, 0xDD, 0x30, 0xFD, 0xE2, 0x98, 0x25, 0xB3, 0x10, 0x91, 0x22, 0x88],
    [0x36, 0xD0, 0x94, 0xCE, 0x8F, 0x96, 0xDB, 0xBD, 0xF1, 0xD2, 0x13, 0x5C, 0x83, 0x38, 0x46, 0x40],
    [0x1E, 0x42, 0xB6, 0xA3, 0xC3, 0x48, 0x7E, 0x6E, 0x6B, 0x3A, 0x28, 0x54, 0xFA, 0x85, 0xBA, 0x3D],
    [0xCA, 0x5E, 0x9B, 0x9F, 0x0A, 0x15, 0x79, 0x2B, 0x4E, 0xD4, 0xE5, 0xAC, 0x73, 0xF3, 0xA7, 0x57],
    [0x07, 0x70, 0xC0, 0xF7, 0x8C, 0x80, 0x63, 0x0D, 0x67, 0x4A, 0xDE, 0xED, 0x31, 0xC5, 0xFE, 0x18],
    [0xE3, 0xA5, 0x99, 0x77, 0x26, 0xB8, 0xB4, 0x7C, 0x11, 0x44, 0x92, 0xD9, 0x23, 0x20, 0x89, 0x2E],
    [0x37, 0x3F, 0xD1, 0x5B, 0x95, 0xBC, 0xCF, 0xCD, 0x90, 0x87, 0x97, 0xB2, 0xDC, 0xFC, 0xBE, 0x61],
    [0xF2, 0x56, 0xD3, 0xAB, 0x14, 0x2A, 0x5D, 0x9E, 0x84, 0x3C, 0x39, 0x53, 0x47, 0x6D, 0x41, 0xA2],
    [0x1F, 0x2D, 0x43, 0xD8, 0xB7, 0x7B, 0xA4, 0x76, 0xC4, 0x17, 0x49, 0xEC, 0x7F, 0x0C, 0x6F, 0xF6],
    [0x6C, 0xA1, 0x3B, 0x52, 0x29, 0x9D, 0x55, 0xAA, 0xFB, 0x60, 0x86, 0xB1, 0xBB, 0xCC, 0x3E, 0x5A],
    [0xCB, 0x59, 0x5F, 0xB0, 0x9C, 0xA9, 0xA0, 0x51, 0x0B, 0xF5, 0x16, 0xEB, 0x7A, 0x75, 0x2C, 0xD7],
    [0x4F, 0xAE, 0xD5, 0xE9, 0xE6, 0xE7, 0xAD, 0xE8, 0x74, 0xD6, 0xF4, 0xEA, 0xA8, 0x50, 0x58, 0xAF] ]

/-- The printed tables as ROMs. -/
def exRom : Rom := { alog := ⟨exAlog.toArray, by decide +kernel⟩, log := ⟨exLog.toArray, by decide +kernel⟩ }

/-- The reset state of a machine with the example parameters and the printed tables. -/
def ex : State := { State.reset with params := exampleParams, rom := exRom }

/-- `ex` with IBUF[0..] holding `bytes`. -/
def exIbuf (bytes : List Byte) : State := { ex with ibuf := cellsFrom 0 bytes }

/-- `ex` configured with block size, page size and CFG. -/
def exCfg (b p c : Word) : State := { ex with blockSize := b, pageSize := p, cfg := c }

/-- The next state, if there is one. -/
def after : Host.Outcome State Fault Refusal → Option State
  | .next t => some t
  | _ => none

/-- The step that completes the word `w` from `s`, through fetch, decode and dispatch. -/
def ran (s : State) (w : Nat) : Option State := after (step (s.withFetchWord 32 w))

/-- RESULT after the word `w`. -/
def resultOf (s : State) (w : Nat) : Option Word := (ran s w).map (·.result)

/-- STATUS after the word `w`. -/
def statusOf (s : State) (w : Nat) : Option Word := (ran s w).map (·.status)

/-! ### Well-formedness: one ill-formed term for each check -/

theorem test_width_refused_reg : (Access.read .reg 0x10 8).wellFormed = false := by decide

theorem test_width_refused_buffer : (Access.read .ibuf 0 16).wellFormed = false := by decide

theorem test_misaligned_refused : (Access.write .ibuf 2 32 0).wellFormed = false := by decide

theorem test_value_too_wide_refused : (Access.write .obuf 1 8 0x100).wellFormed = false := by decide

theorem test_move_width_refused : (HostMove.readAt 0x1000 64).wellFormed = false := by decide

theorem test_wellFormed_accepts :
    (Access.write .ibuf 4 32 0x44332211).wellFormed = true ∧
    (Access.read .obuf 3 8).wellFormed = true := by decide

/-! ### Decoding: words written out from 30_encoding.md, and the table of 95_test_vectors.md 6.1 -/

theorem test_decode_nop : decode 0b00000000000000000000000000000000 = .ok .nop := by decide

theorem test_decode_gfAdd :
    decode 0b00000001000000000000111100001010 = .ok (.gfAdd 0x0F 0x0A) := by decide

theorem test_decode_gfMul :
    decode 0b00000010000000000000001000000100 = .ok (.gfMul 0x02 0x04) := by decide

theorem test_decode_gfLog : decode 0b00000011000000000000000010000000 = .ok (.gfLog 0x80) := by decide

theorem test_decode_gfAlog :
    decode 0b00000100000000000000000011111110 = .ok (.gfAlog 0xFE) := by decide

theorem test_decode_pgClr : decode 0b00010000000000000000000000000011 = .ok (.pgClr 3) := by decide

theorem test_decode_pgByte :
    decode 0b00010001000000000000000001010101 = .ok (.pgByte 0x55) := by decide

theorem test_decode_pgPar : decode 0b00010010000000000000000000000000 = .ok .pgPar := by decide

theorem test_decode_pgChunk :
    decode 0b00010011100000000000000000000001 = .ok (.pgChunk 0x800001) := by decide

theorem test_decode_asmPage : decode 0b00100000000000000000000000000001 = .ok (.asmPage 1) := by decide

theorem test_decode_asmBlock : decode 0b00100001000000000000000000000000 = .ok .asmBlock := by decide

theorem test_decode_illegal :
    (decode 0x00000001).toOption = none ∧ (decode 0x01010F0A).toOption = none ∧
    (decode 0x03000100).toOption = none ∧ (decode 0x10000013).toOption = none ∧
    (decode 0x21000001).toOption = none ∧ (decode 0x05000000).toOption = none ∧
    (decode 0x0F000000).toOption = none ∧ (decode 0x14000000).toOption = none ∧
    (decode 0x22000000).toOption = none ∧ (decode 0xFF000000).toOption = none := by decide

/-- "GF_MUL 0x02, 0x04 encodes as 0x02000204" (R88). -/
theorem test_encode_gfMul : encode (.gfMul 0x02 0x04) = 0x02000204 := by decide

theorem test_decodeTableWord : decodeTableWord 32 0x13FFFFFF = some (.pgChunk 0xFFFFFF) := by decide

/-- The opcode map has no word that two rows select (R83). -/
theorem test_rows_disjoint :
    rows.Pairwise (fun r r' => r.value &&& (r.mask &&& r'.mask) ≠ r'.value &&& (r.mask &&& r'.mask)) := by
  decide

/-! ### Commands (95_test_vectors.md sections 3 to 6) -/

theorem test_nop_clears_error :
    statusOf { ex with err := true, errcode := 11 } 0x00000000 = some 0 := by decide +kernel

theorem test_gfAdd : resultOf ex 0x01000F0A = some 0x00000005 := by decide +kernel

theorem test_gfMul : resultOf ex 0x020053CA = some 0x0000008F := by decide +kernel

theorem test_gfMul_zero : resultOf ex 0x02003700 = some 0x00000000 := by decide +kernel

theorem test_gfLog : resultOf ex 0x030000FF = some 0x000000AF := by decide +kernel

theorem test_gfLog_zero : resultOf ex 0x03000000 = some 0x00000000 := by decide +kernel

theorem test_gfAlog : resultOf ex 0x040000FE = some 0x0000008E := by decide +kernel

theorem test_gfAlog_255 : resultOf ex 0x040000FF = some 0x00000001 := by decide +kernel

theorem test_pgClr_keeps_nothing :
    (ran { ex with acc := ⟨1, 2, 3, 4⟩, pgcnt := 9 } 0x10000003).map
      (fun t => (accvWord t.acc, pgstateWord t.pgcnt t.pgstr)) = some (0, 0x00000300) := by
  decide +kernel

theorem test_pgClr_bad_strength : statusOf ex 0x10000005 = some 0x00000052 := by decide +kernel

/-- PG_CLR 3; PG_BYTE 0x01; PG_BYTE 0x00: ACCV 0x006C0DA7, PGSTATE 0x00000302. -/
theorem test_pgByte_ecc3 :
    (ran { ex with acc := ⟨0x40, 0x38, 0x0E, 0x00⟩, pgcnt := 1, pgstr := 3 } 0x11000000).map
      (fun t => (accvWord t.acc, pgstateWord t.pgcnt t.pgstr)) = some (0x006C0DA7, 0x00000302) := by
  decide +kernel

/-- PG_CLR 4; PG_BYTE 0x01; PG_BYTE 0x00: ACCV 0x9182A1B1. -/
theorem test_pgByte_ecc4 :
    (ran { ex with acc := ⟨0x74, 0xE7, 0xD8, 0x1E⟩, pgcnt := 1 } 0x11000000).map
      (fun t => (accvWord t.acc, pgstateWord t.pgcnt t.pgstr)) = some (0x9182A1B1, 0x00000402) := by
  decide +kernel

theorem test_pgPar_packs :
    resultOf { ex with acc := ⟨0x40, 0x38, 0x0E, 0x00⟩, pgcnt := 128, pgstr := 3 } 0x12000000
      = some 0x0040380E := by decide +kernel

theorem test_pgPar_incomplete : statusOf { ex with pgcnt := 127 } 0x12000000 = some 0x000000D2 := by
  decide +kernel

/-- The example of R129: PGSTR = 3, the last byte of the chunk 0x02. -/
theorem test_pgChunk_last_byte :
    resultOf { ex with ibuf := cellsFrom 0 (List.replicate 127 0 ++ [2]), pgstr := 3 } 0x13000000
      = some 0x0080701C := by decide +kernel

/-- K = MAX_BLOCK_SIZE - 127: ERRCODE 11. -/
theorem test_pgChunk_range : statusOf ex 0x13000181 = some 0x000000B2 := by decide +kernel

/-- R160's example: B = 256, P = 128, ZERO_FILL, page 1: OBUF[132..259] and OBUF[260..263]. -/
theorem test_asmPage :
    (ran { exCfg 256 128 0x10 with ibuf := cellsFrom 0 ((List.range 256).map (BitVec.ofNat 8)) }
      0x20000001).map (fun t => (t.obuf.byteAt 131, t.obuf.byteAt 132, t.obuf.byteAt 259,
        t.obuf.byteAt 263, t.obuf.byteAt 264))
      = some (none, some 0x80, some 0xFF, some 0x00, none) := by decide +kernel

theorem test_illegal_word :
    statusOf ex 0x05000000 = some 0x00000012 ∧ statusOf ex 0x01010F0A = some 0x00000012 := by
  decide +kernel

/-- 5.2: the codes of the configuration check. -/
theorem test_checkCfg_codes :
    statusOf (exCfg 0 0 0) 0x21000000 = some 0x22 ∧
    statusOf (exCfg 256 0 4) 0x21000000 = some 0x32 ∧
    statusOf (exCfg 256 48 0x10) 0x21000000 = some 0x42 ∧
    statusOf (exCfg 256 128 7) 0x21000000 = some 0x52 ∧
    statusOf (exCfg 640 128 4) 0x21000000 = some 0x62 ∧
    statusOf (exCfg 384 256 0x10) 0x21000000 = some 0x72 ∧
    statusOf (exCfg 256 128 0) 0x21000000 = some 0x82 ∧
    statusOf (exCfg 256 128 0x30) 0x21000000 = some 0x92 ∧
    statusOf (exCfg 192 96 4) 0x21000000 = some 0xA2 := by decide +kernel

/-- 5.1: the MODE register per CFG value. -/
theorem test_modeWord :
    [0x00, 0x03, 0x04, 0x10, 0x20, 0x13, 0x23, 0x33, 0x14, 0x24, 0x30, 0x34, 0x01, 0x17].map modeWord
      = [0x8000, 0x103, 0x102, 0x100, 0x101, 0x103, 0x103, 0x103, 0x100, 0x101, 0x9000, 0x9000,
        0x5000, 0x5000] := by decide +kernel

/-! ### Host accesses (95_test_vectors.md 6.2, 6.3) -/

/-- `WR32 IBUF[0], 0x44332211`, then `RD8 IBUF[2]` returns 0x33. -/
theorem test_byte_order :
    ((after (hostMove (wr32 0 0x44332211) ex)).bind
      (fun t => after (hostMove (.access (.read .ibuf 2 8)) t))).map (·.hostGot)
      = some [0x33] := by decide +kernel

/-- CFG reads back 0x00000004 after a write of 0xFFFFFFC4. -/
theorem test_cfg_reserved :
    ((after (hostMove (wr .cfg 0xFFFFFFC4) ex)).bind (fun t => after (hostMove (rd .cfg) t))).map
      (·.hostGot) = some [0x00000004] := by decide +kernel

/-- `WR32 IBUF[2], v` is refused, and so is `WR8 REG`. -/
theorem test_refused_accesses :
    after (hostMove (wr32 2 0) ex) = none ∧
    after (hostMove (.access (.write .reg 0 8 0)) ex) = none ∧
    after (hostMove (.access (.read .reg 0x28 32)) ex) = none := by decide +kernel

/-- From idle, `WR CMD, 0x02000204`: STATUS reads 0x00000001 until completion. -/
theorem test_issue_busy :
    (after (hostMove (wr .cmd 0x02000204) ex)).map (·.status) = some 0x00000001 := by decide +kernel

/-- `WR STATUS, 0xFFFFFFFF` is ignored; a read of CMD returns 0. -/
theorem test_status_write_ignored :
    (after (hostMove (wr .status 0xFFFFFFFF) ex)).map (·.status) = some 0 ∧
    (after (hostMove (rd .cmd) ex)).map (·.hostGot) = some [0] := by decide +kernel

/-! ### The longer checks: two blocks, a dense chunk, and the printed tables -/

/-- B = 256, P = 128, ECC3, page 0 all zero, page 1 = e_127=0x01: OOB_0 = 00 00 00 FF (program P3) and
OOB_1 = 0E 38 40 FF (4.1 and the pre-fill of R156). -/
theorem test_asmBlock :
    (ran { exCfg 256 128 3 with ibuf := cellsFrom 0 (List.replicate 255 0 ++ [1]) } 0x21000000).map
      (fun t => (t.obuf.readBytes 128 4 0, t.obuf.readBytes 259 5 0, t.obuf.byteAt 264))
      = some ([0, 0, 0, 0xFF], [0x01, 0x0E, 0x38, 0x40, 0xFF], none) := by
  decide +kernel

/-- 4.1, c_k = k: ECC-4 parity EB 35 23 AA. -/
theorem test_pgChunk :
    resultOf (exIbuf ((List.range 128).map (BitVec.ofNat 8))) 0x13000000 = some 0xAA2335EB := by
  decide +kernel

/-- The ROM contents built from the example parameters are the printed tables (R20, R21). -/
theorem test_alog_entries : exAlog = (List.range 256).map (alogEntry exampleParams) := by
  decide +kernel

theorem test_log_entries : exLog = (List.range 256).map (logEntry exRom.alog 0x00) := by
  decide +kernel

theorem test_rom_tables : exRom = romOf exampleParams := by
  have ha : exRom.alog = tableOf (alogEntry exampleParams) :=
    Vector.toArray_inj.1 (congrArg List.toArray test_alog_entries)
  have hl : exRom.log = tableOf (logEntry exRom.alog 0x00) :=
    Vector.toArray_inj.1 (congrArg List.toArray test_log_entries)
  have h : exRom = ⟨exRom.alog, exRom.log⟩ := rfl
  rw [h, hl, ha]
  rfl

theorem test_example_params_legal : Params.wf exampleParams = true := by decide +kernel

/-! ### Witnesses: the hypotheses of the statements are met

Each theorem is named after its statement and meets the hypotheses of every clause of it, at the ends
of their ranges. -/

/-- A machine with the example parameters meets the invariant whatever its configuration and IBUF. -/
theorem inv_of_example (b p c : Word) (m : Memory) (str : BitVec 4) (todo : List HostMove)
    (hc : c.toNat < 64) (hm : m.wf = true) (hin : m.within 512 = true) (hs : str = 3 ∨ str = 4) :
    { exCfg b p c with ibuf := m, pgstr := str, hostTodo := todo }.Inv where
  params_wf := test_example_params_legal
  rom_eq := test_rom_tables
  pgcnt_le := by simp [exCfg, ex, State.reset]
  pgstr_legal := hs
  acc3_zero := fun _ => rfl
  busy_iff := rfl
  err_iff := by simp [exCfg, ex, State.reset]
  errcode_le := by simp [exCfg, ex, State.reset]
  busy_noerr := fun _ => rfl
  cfg_reserved := hc
  ibuf_wf := hm
  ibuf_within := hin
  obuf_wf := rfl
  obuf_within := rfl
  reset_idle := fun _ => rfl

/-- The example machine satisfies the invariant. -/
theorem witness_inv : ex.Inv :=
  inv_of_example 0 0 0 [] 4 [] (by decide) rfl rfl (.inr rfl)

/-- A command is pending, and the last four bytes of IBUF are written. -/
def busyEx : State :=
  { (ex.aboutToRun 0x00000000) with ibuf := cellsFrom 508 [1, 2, 3, 4], delay := 2, hostTodo := [.wait] }

theorem witness_inv_busy : busyEx.Inv where
  params_wf := test_example_params_legal
  rom_eq := test_rom_tables
  pgcnt_le := by decide
  pgstr_legal := by decide
  acc3_zero := by decide
  busy_iff := rfl
  err_iff := by decide
  errcode_le := by decide
  busy_noerr := by decide
  cfg_reserved := by decide
  ibuf_wf := by decide
  ibuf_within := by decide
  obuf_wf := rfl
  obuf_within := rfl
  reset_idle := by decide

/-- `busyEx` in the last error state instead of busy. -/
def errEx (todo : List HostMove) : State := { ex with err := true, errcode := 11, hostTodo := todo }

theorem witness_inv_err (todo : List HostMove) : (errEx todo).Inv where
  params_wf := test_example_params_legal
  rom_eq := test_rom_tables
  pgcnt_le := by simp [errEx, ex, State.reset]
  pgstr_legal := .inr rfl
  acc3_zero := fun _ => rfl
  busy_iff := rfl
  err_iff := by simp [errEx]
  errcode_le := by simp [errEx]
  busy_noerr := fun h => by simp [errEx, ex, State.reset] at h
  cfg_reserved := by simp [errEx, ex, State.reset]
  ibuf_wf := rfl
  ibuf_within := rfl
  obuf_wf := rfl
  obuf_within := rfl
  reset_idle := fun _ => rfl

/-- A written raw block of `n` bytes: the configured machine with IBUF[0..n-1] = 0, 1, 2, … -/
def blockEx (b p c : Word) (n : Nat) : State :=
  { exCfg b p c with ibuf := cellsFrom 0 ((List.range n).map (BitVec.ofNat 8)) }

theorem wf_cellsFrom (off : Nat) (bs : List Byte) : (cellsFrom off bs).wf = true :=
  (Memory.wf_iff _).2 (pairwise_cellsFrom off bs)

theorem within_cellsFrom {off n : Nat} {bs : List Byte} (h : off + bs.length ≤ n) :
    (cellsFrom off bs).within n = true := by
  simp only [Memory.within, List.all_eq_true, decide_eq_true_eq]
  intro c hc
  have := mem_cellsFrom hc
  omega

theorem holds_cellsFrom (off : Nat) (bs : List Byte) : holds (cellsFrom off bs) off bs := by
  intro j hj
  simp [byteAt_cellsFrom, hj]

theorem inv_blockEx_256 (c : Word) (hc : c.toNat < 64) : (blockEx 256 128 c 256).Inv :=
  inv_of_example 256 128 c _ 4 [] hc (wf_cellsFrom _ _) (within_cellsFrom (by simp)) (.inr rfl)

theorem witness_EncodeAfterDecode :
    decode 0x00000000 = .ok .nop ∧ decode 0x20FFFFFF = .ok (.asmPage 0xFFFFFF) := by decide

theorem witness_DecodeIsTheOpcodeMap :
    (opcode 0x00000000 = 0x00 ∧ (0x00000000 : Word).extractLsb' 0 24 = 0#24) ∧
    (opcode 0x0100FFFF = 0x01 ∧ (0x0100FFFF : Word).extractLsb' 16 8 = 0#8) ∧
    (opcode 0x0200FFFF = 0x02 ∧ (0x0200FFFF : Word).extractLsb' 16 8 = 0#8) ∧
    (opcode 0x030000FF = 0x03 ∧ (0x030000FF : Word).extractLsb' 8 16 = 0#16) ∧
    (opcode 0x040000FF = 0x04 ∧ (0x040000FF : Word).extractLsb' 8 16 = 0#16) ∧
    (opcode 0x1000000F = 0x10 ∧ (0x1000000F : Word).extractLsb' 4 20 = 0#20) ∧
    (opcode 0x110000FF = 0x11 ∧ (0x110000FF : Word).extractLsb' 8 16 = 0#16) ∧
    (opcode 0x12000000 = 0x12 ∧ (0x12000000 : Word).extractLsb' 0 24 = 0#24) ∧
    opcode 0x13FFFFFF = 0x13 ∧ opcode 0x20FFFFFF = 0x20 ∧
    (opcode 0x21000000 = 0x21 ∧ (0x21000000 : Word).extractLsb' 0 24 = 0#24) := by decide

theorem witness_IllegalWordsChangeOnlyStatus :
    isIllegal 0x05000000 ∧ isIllegal 0x0F000000 ∧ isIllegal 0x14000000 ∧ isIllegal 0x1FFFFFFF ∧
    isIllegal 0x22000000 ∧ isIllegal 0xFFFFFFFF ∧ isIllegal 0x00000001 ∧ isIllegal 0x01010000 ∧
    isIllegal 0x03000100 ∧ isIllegal 0x10000010 ∧ isIllegal 0x21800000 ∧
    ((ex.aboutToRun 0x05000000).pending = some 0x05000000 ∧ (ex.aboutToRun 0x05000000).delay = 0 ∧
      (ex.aboutToRun 0x05000000).resetLine = false) :=
  ⟨⟨.undefinedOpcode, rfl⟩, ⟨.undefinedOpcode, rfl⟩, ⟨.undefinedOpcode, rfl⟩, ⟨.undefinedOpcode, rfl⟩,
    ⟨.undefinedOpcode, rfl⟩, ⟨.undefinedOpcode, rfl⟩, ⟨.reservedBits, rfl⟩, ⟨.reservedBits, rfl⟩,
    ⟨.reservedBits, rfl⟩, ⟨.reservedBits, rfl⟩, ⟨.reservedBits, rfl⟩, rfl, rfl, rfl⟩

theorem witness_StepRunsTheDecodedCommand :
    ((ex.aboutToRun 0x02000204).resetLine = false ∧
      (ex.aboutToRun 0x02000204).pending = some 0x02000204 ∧ (ex.aboutToRun 0x02000204).delay = 0 ∧
      decode 0x02000204 = .ok (.gfMul 2 4)) ∧
    (busyEx.resetLine = false ∧ busyEx.pending = some 0x00000000 ∧ busyEx.delay = 1 + 1 ∧
      busyEx.hostTodo = [.wait]) ∧
    (ex.pending = none ∧ ex.hostTodo = []) ∧ ex.assertReset.resetLine = true := by decide

theorem witness_CmdWriteIssues :
    (ex.resetLine = false ∧ ex.busy = false) ∧ (busyEx.resetLine = false ∧ busyEx.busy = true) := by
  decide

theorem witness_NopOnlyCompletes :
    (opcode 0 = 0x00 ∧ (0 : Word) = 0) ∧ (opcode 0x00000001 = 0x00 ∧ (0x00000001 : Word) ≠ 0) := by
  decide

theorem witness_GfAddWritesXor :
    (opcode 0x0100FFFF = 0x01 ∧ (0x0100FFFF : Word).extractLsb' 16 8 = 0#8) ∧
    (opcode 0x01010000 = 0x01 ∧ (0x01010000 : Word).extractLsb' 16 8 ≠ 0#8) := by decide

theorem witness_GfMulWritesTableProduct :
    ex.Inv ∧ ((0 : Byte) = 0 ∨ (0xFF : Byte) = 0) ∧ ((0xFF : Byte) ≠ 0 ∧ (1 : Byte) ≠ 0) ∧
    (opcode 0x0200FFFF = 0x02 ∧ (0x0200FFFF : Word).extractLsb' 16 8 = 0#8) ∧
    (opcode 0x02010000 = 0x02 ∧ (0x02010000 : Word).extractLsb' 16 8 ≠ 0#8) :=
  ⟨witness_inv, by decide⟩

theorem witness_GfLogWritesLog :
    ex.Inv ∧ (1 : Byte) ≠ 0 ∧ (0xFF : Byte) ≠ 0 ∧
    (opcode 0x030000FF = 0x03 ∧ (0x030000FF : Word).extractLsb' 8 16 = 0#16) ∧
    (opcode 0x03000100 = 0x03 ∧ (0x03000100 : Word).extractLsb' 8 16 ≠ 0#16) :=
  ⟨witness_inv, by decide⟩

theorem witness_GfAlogWritesAlog :
    ex.Inv ∧
    (opcode 0x040000FF = 0x04 ∧ (0x040000FF : Word).extractLsb' 8 16 = 0#16) ∧
    (opcode 0x04800000 = 0x04 ∧ (0x04800000 : Word).extractLsb' 8 16 ≠ 0#16) :=
  ⟨witness_inv, by decide⟩

/-- AlogHoldsEveryNonzeroElementOnce, LogInvertsAlog, TableProductIsFieldProduct, FieldLaws and
Ecc3CoefficientsAreTheProduct assume the invariant, and operands that are not 0 or at most 254. -/
theorem witness_field_statements :
    ex.Inv ∧ (254 : Byte).toNat ≤ 254 ∧ (1 : Byte) ≠ 0 ∧ (255 : Byte) ≠ 0 ∧
    alogAt ex.rom 254 = 0x8E :=
  ⟨witness_inv, by decide⟩

theorem witness_PgClrStartsAChunk :
    ((3 : BitVec 4) = 3 ∨ (3 : BitVec 4) = 4) ∧ ((4 : BitVec 4) = 3 ∨ (4 : BitVec 4) = 4) ∧
    ((2 : BitVec 4) ≠ 3 ∧ (2 : BitVec 4) ≠ 4) ∧ ((5 : BitVec 4) ≠ 3 ∧ (5 : BitVec 4) ≠ 4) ∧
    (opcode 0x1000000F = 0x10 ∧ (0x1000000F : Word).extractLsb' 4 20 = 0#20) ∧
    (opcode 0x10000010 = 0x10 ∧ (0x10000010 : Word).extractLsb' 4 20 ≠ 0#20) := by decide

theorem witness_PgByteStepsTheKernel :
    { ex with pgcnt := 128 }.pgcnt = 128 ∧
    ({ ex with pgcnt := 127 }.pgcnt ≠ 128 ∧ ex.pgstr = 4) ∧
    (ex.pgcnt ≠ 128 ∧ { ex with pgstr := 3 }.pgstr = 3) ∧
    (opcode 0x110000FF = 0x11 ∧ (0x110000FF : Word).extractLsb' 8 16 = 0#16) ∧
    (opcode 0x11000100 = 0x11 ∧ (0x11000100 : Word).extractLsb' 8 16 ≠ 0#16) := by decide

theorem witness_PgParPacksTheParity :
    { ex with pgcnt := 127 }.pgcnt ≠ 128 ∧
    ({ ex with pgcnt := 128 }.pgcnt = 128 ∧ ex.pgstr = 4) ∧
    ({ ex with pgcnt := 128, pgstr := 3 }.pgcnt = 128 ∧ { ex with pgstr := 3 }.pgstr = 3) ∧
    (opcode 0x12000000 = 0x12 ∧ opcode 0x12000001 = 0x12 ∧ (0x12000001 : Word) ≠ 0x12000000) := by
  decide

/-- MAX_BLOCK_SIZE = 512: K = 384 is the last offset in range. -/
theorem witness_PgChunkComputesTheParity :
    ex.params.maxBlockSize < (385#24).toNat + 128 ∧ (384#24).toNat + 128 ≤ ex.params.maxBlockSize ∧
    ex.params.maxBlockSize < (0xFFFFFF#24).toNat + 128 ∧
    ({ ex with ibuf := cellsFrom 511 [7] }.ibuf.byteAt (384 + 127) = some 7) ∧
    ex.pgstr = 4 ∧ { ex with pgstr := 3 }.pgstr = 3 ∧ opcode 0x13FFFFFF = 0x13 := by decide

/-- A chunk at the end of IBUF. -/
def chunkEx (str : BitVec 4) : State :=
  { exCfg 0 0 0 with ibuf := cellsFrom 384 (List.replicate 128 1), pgstr := str, hostTodo := [] }

theorem holds_chunkEx (str : BitVec 4) :
    holds (chunkEx str).ibuf (384#24).toNat (List.replicate 128 1) := holds_cellsFrom 384 _

theorem witness_FeedingBytesAgreesWithPgChunk :
    ((chunkEx 3).Inv ∧ (chunkEx 4).Inv) ∧ (384#24).toNat + 128 ≤ (chunkEx 3).params.maxBlockSize ∧
    (List.replicate 128 (1 : Byte)).length = 128 ∧
    holds (chunkEx 3).ibuf (384#24).toNat (List.replicate 128 1) :=
  ⟨⟨inv_of_example 0 0 0 _ 3 [] (by decide) (wf_cellsFrom _ _) (within_cellsFrom (by simp)) (.inl rfl),
    inv_of_example 0 0 0 _ 4 [] (by decide) (wf_cellsFrom _ _) (within_cellsFrom (by simp)) (.inr rfl)⟩,
    by decide, by simp, holds_chunkEx 3⟩

theorem witness_ChunkAccIsTheRemainder :
    ex.Inv ∧ ((3 : BitVec 4) = 3 ∨ (3 : BitVec 4) = 4) ∧ ((4 : BitVec 4) = 3 ∨ (4 : BitVec 4) = 4) ∧
    (List.replicate 128 (1 : Byte)).length = 128 :=
  ⟨witness_inv, by simp⟩

theorem witness_ChunkParityLaws :
    ((List.replicate 128 (1 : Byte)).length = 128 ∧ holds (chunkEx 4).ibuf (384#24).toNat
      (List.replicate 128 1) ∧ (384#24).toNat + 128 ≤ (chunkEx 4).params.maxBlockSize ∧
      ∃ t, exec (.pgChunk 384) (chunkEx 4) = .next t) ∧
    ex.Inv ∧ ((3 : BitVec 4) = 3 ∨ (3 : BitVec 4) = 4) ∧ (List.replicate 128 (255 : Byte)).length = 128 :=
  ⟨⟨by simp, holds_chunkEx 4, by decide, _, rfl⟩, witness_inv, by simp⟩

theorem witness_ModeResolution :
    ((0x33 : Word).extractLsb' 0 4 = 3#4) ∧
    ((0x0F : Word).extractLsb' 0 4 ≠ 0#4 ∧ (0x0F : Word).extractLsb' 0 4 ≠ 3#4 ∧
      (0x0F : Word).extractLsb' 0 4 ≠ 4#4) ∧
    ((0x34 : Word).extractLsb' 0 4 = 4#4 ∧ (0x34 : Word).getLsbD 4 = true ∧
      (0x34 : Word).getLsbD 5 = true) ∧
    ((0x10 : Word).extractLsb' 0 4 = 0#4 ∧ (0x10 : Word).getLsbD 4 = true ∧
      (0x10 : Word).getLsbD 5 = false) ∧
    ((0x24 : Word).extractLsb' 0 4 = 4#4 ∧ (0x24 : Word).getLsbD 4 = false ∧
      (0x24 : Word).getLsbD 5 = true) ∧
    ((0x04 : Word).extractLsb' 0 4 = 4#4 ∧ (0x04 : Word).getLsbD 4 = false ∧
      (0x04 : Word).getLsbD 5 = false) ∧
    ((0x00 : Word).extractLsb' 0 4 = 0#4 ∧ (0x00 : Word).getLsbD 4 = false ∧
      (0x00 : Word).getLsbD 5 = false) := by decide

/-- One configuration for each clause, in its order; each meets the earlier clauses' conditions. -/
theorem witness_ConfigurationErrorsInOrder :
    (exCfg 0 0 0).blockSize.toNat = 0 ∧
    ((exCfg 1 0 0).blockSize.toNat ≠ 0 ∧ (exCfg 1 0 0).pageSize.toNat = 0) ∧
    ((31 : Word).toNat ≠ 0 ∧ (31 : Word).toNat % 32 ≠ 0) ∧
    ((32 : Word).toNat % 32 = 0 ∧ resolve 0x35 = .error .cfgBadStrength) ∧
    (resolve 0x00 ≠ .error .cfgBadStrength ∧ ex.params.maxBlockSize < (513 : Word).toNat) ∧
    ((512 : Word).toNat ≤ ex.params.maxBlockSize ∧ (512 : Word).toNat % (96 : Word).toNat ≠ 0) ∧
    ((512 : Word).toNat % (512 : Word).toNat = 0 ∧ resolve 0x30 = .error .cfgFillConflict) ∧
    resolve 0x00 = .error .cfgNoMode ∧
    (resolve 0x03 = .ok .ecc3 ∧ (96 : Word).toNat % 128 ≠ 0 ∧ (192 : Word).toNat % (96 : Word).toNat = 0) ∧
    (resolve 0x04 = .ok .ecc4 ∧ (512 : Word).toNat % 128 = 0) ∧ resolve 0x10 = .ok .zero := by
  decide

/-- One page that fills the largest block, and several pages, in each mode. -/
theorem witness_OutputSizes :
    (∀ c : Word, c.toNat < 64 → (exCfg 512 512 c).Inv ∧ (exCfg 512 32 c).Inv) ∧
    checkCfg (exCfg 512 512 3) = .ok ⟨512, 512, .ecc3⟩ ∧
    checkCfg (exCfg 512 128 4) = .ok ⟨128, 512, .ecc4⟩ ∧
    checkCfg (exCfg 512 32 0x10) = .ok ⟨32, 512, .zero⟩ ∧
    checkCfg (exCfg 32 32 0x20) = .ok ⟨32, 32, .ones⟩ :=
  ⟨fun c hc => ⟨inv_of_example 512 512 c [] 4 [] hc rfl rfl (.inr rfl),
      inv_of_example 512 32 c [] 4 [] hc rfl rfl (.inr rfl)⟩, by decide⟩

/-- Two pages: index 1 is the last page and index 2 is none; both chunks of the block are written. -/
theorem witness_AsmPageLaysOutItsPage :
    (checkCfg (blockEx 256 128 3 256) = .ok ⟨128, 256, .ecc3⟩ ∧
      checkCfg (blockEx 256 128 4 256) = .ok ⟨128, 256, .ecc4⟩ ∧
      checkCfg (blockEx 256 128 0x10 256) = .ok ⟨128, 256, .zero⟩ ∧
      checkCfg (blockEx 256 128 0x20 256) = .ok ⟨128, 256, .ones⟩ ∧
      (⟨128, 256, .ecc3⟩ : Layout).block / (⟨128, 256, .ecc3⟩ : Layout).page ≤ (2#24).toNat ∧
      (1#24).toNat < (⟨128, 256, .ecc3⟩ : Layout).block / (⟨128, 256, .ecc3⟩ : Layout).page ∧
      strengthOf .ecc3 = some 3 ∧ strengthOf .ecc4 = some 4) ∧
    (((List.range 256).map (BitVec.ofNat 8)).drop 128).length = 128 ∧
    holds (blockEx 256 128 3 256).ibuf (1 * 128 + 128 * 0)
      (((List.range 256).map (BitVec.ofNat 8)).drop 128) := by
  refine ⟨by decide, by simp, fun j hj => ?_⟩
  have h := holds_cellsFrom 0 ((List.range 256).map (BitVec.ofNat 8)) (128 + j) (by simp at *; omega)
  simpa [blockEx] using h

theorem witness_AsmBlockLaysOutTheBlock :
    checkCfg (exCfg 512 512 3) = .ok ⟨512, 512, .ecc3⟩ ∧
    checkCfg (exCfg 512 128 4) = .ok ⟨128, 512, .ecc4⟩ := by decide

theorem allWritten_blockEx (c : Word) : allWritten (blockEx 256 128 c 256).ibuf 256 := by
  intro a ha
  exact ⟨_, by simpa [blockEx] using holds_cellsFrom 0 ((List.range 256).map (BitVec.ofNat 8)) a (by simpa using ha)⟩

theorem witness_PagesInAnyOrderGiveTheBlock :
    (blockEx 256 128 3 256).Inv ∧ checkCfg (blockEx 256 128 3 256) = .ok ⟨128, 256, .ecc3⟩ ∧
    allWritten (blockEx 256 128 3 256).ibuf 256 ∧ [1, 0].Perm (List.range (256 / 128)) :=
  ⟨inv_blockEx_256 3 (by decide), by decide, allWritten_blockEx 3, by decide⟩

/-- Two machines that differ in OBUF and in IBUF above the block. -/
theorem witness_AsmBlockIsDeterministic :
    checkCfg (blockEx 256 128 4 256) = .ok ⟨128, 256, .ecc4⟩ ∧
    allWritten (blockEx 256 128 4 256).ibuf 256 ∧
    (∀ a, a < 256 → (blockEx 256 128 4 300).ibuf.byteAt a = (blockEx 256 128 4 256).ibuf.byteAt a) ∧
    (∃ t, exec .asmBlock (blockEx 256 128 4 256) = .next t) ∧
    ∃ t, exec .asmBlock { blockEx 256 128 4 300 with obuf := [(0, 9)] } = .next t :=
  ⟨by decide, allWritten_blockEx 4, fun a ha => by
      simp only [blockEx, byteAt_cellsFrom, Nat.zero_le, if_true, Nat.sub_zero]
      rw [List.getElem?_eq_getElem (by simp; omega), List.getElem?_eq_getElem (by simpa using ha)]
      simp, ⟨_, rfl⟩, _, rfl⟩

theorem witness_PrivateAccumulatorIsUnobservable :
    step ex = .next ex ∧
    step { ex with hostTodo := [.access (.read .reg 0x28 32)] } = .refused .hostUnmapped := ⟨rfl, rfl⟩

/-- Every command gives a next state: CommandFrame, EngineNeverReadsObuf, ErrorCodesByCommand. -/
theorem witness_exec_next (i : Instr) : ∃ t, exec i ex = .next t := by cases i <;> exact ⟨_, rfl⟩

theorem witness_ErrorsWriteOnlyStatus :
    exec (.pgClr 5) ex = .next (failed ex 5) ∧ (failed ex 5).err = true := ⟨rfl, rfl⟩

/-- The three ways on from an error state: it stays, a command is accepted (by offset or by platform
address), reset is asserted. The error state is idle and out of reset. -/
theorem witness_ErrorStaysUntilNextCommandOrReset :
    (∀ todo, (errEx todo).Inv ∧ (errEx todo).err = true) ∧
    ((errEx []).resetLine = false ∧ (errEx []).busy = false) ∧
    (writesCmd (errEx []).params (wr .cmd 0xFFFFFFFF) ∧
      writesCmd (errEx []).params (.writeAt 0x0C 32 0)) ∧
    (∃ t, step (errEx []) = .next t) ∧
    (∃ t, step (errEx [wr .cmd 0xFFFFFFFF]) = .next t ∧ t.err = false) ∧
    (∃ t, step (errEx [.writeAt 0x0C 32 0]) = .next t ∧ t.err = false) ∧
    ∃ t, step (errEx [.assertReset]) = .next t ∧ t.err = false :=
  ⟨fun todo => ⟨witness_inv_err todo, rfl⟩, ⟨rfl, rfl⟩, ⟨trivial, rfl⟩, ⟨_, rfl⟩, ⟨_, rfl, rfl⟩, ⟨_, rfl, rfl⟩, _, rfl, rfl⟩

/-- RegisterReadsWhenIdle, RegisterWritesWhenIdle. -/
theorem witness_registers_idle : ex.resetLine = false ∧ ex.busy = false := by decide

theorem witness_ReadsWhileBusy :
    (busyEx.Inv ∧ busyEx.busy = true) ∧
    (511 < busyEx.params.maxBlockSize ∧ busyEx.ibuf.byteAt 511 = some 4) ∧
    (508 % 4 = 0 ∧ 508 + 4 ≤ busyEx.params.maxBlockSize) ∧ holds busyEx.ibuf 508 [1, 2, 3, 4] ∧
    527 < obufSize busyEx.params ∧ (524 % 4 = 0 ∧ 524 + 4 ≤ obufSize busyEx.params) :=
  ⟨⟨witness_inv_busy, rfl⟩, by decide, by decide,
    by unfold holds; decide, by decide, by decide⟩

theorem witness_WriteHazardsWhileBusy :
    (busyEx.busy = true ∧ busyEx.resetLine = false) ∧
    hazardousWrite (.write .reg 0x00 32 0) ∧ hazardousWrite (.write .reg 0x0C 32 0) ∧
    hazardousWrite (.write .ibuf 511 8 0) ∧ hazardousWrite (.write .obuf 524 32 0) :=
  ⟨by decide, .inl rfl, .inr (.inr (.inr rfl)), trivial, trivial⟩

/-- RefusedAccesses: the last bytes of each space are reached, the next ones are not. -/
theorem witness_RefusedAccesses :
    ¬ badShape ex.params (.read .reg 0x24 32) ∧ badShape ex.params (.read .reg 0x28 32) ∧
    ¬ badShape ex.params (.read .ibuf 511 8) ∧ badShape ex.params (.read .ibuf 512 8) ∧
    ¬ badShape ex.params (.read .obuf 524 32) ∧ badShape ex.params (.read .obuf 528 32) := by
  simp [badShape, target, ex, exampleParams]

theorem witness_BufferByteOrder :
    (ex.resetLine = false ∧ ex.busy = false) ∧
    (508 % 4 = 0 ∧ 508 + 4 ≤ ex.params.maxBlockSize) ∧ (524 % 4 = 0 ∧ 524 + 4 ≤ obufSize ex.params) ∧
    (511 < ex.params.maxBlockSize ∧ { ex with ibuf := cellsFrom 508 [1, 2, 3, 4] }.ibuf.byteAt 511
      = some 4) ∧
    (527 < obufSize ex.params ∧ { ex with obuf := cellsFrom 524 [1, 2, 3, 4] }.obuf.byteAt 527
      = some 4) ∧
    holds (cellsFrom 508 [1, 2, 3, 4]) 508 [1, 2, 3, 4] ∧
    holds (cellsFrom 524 [1, 2, 3, 4]) 524 [1, 2, 3, 4] :=
  ⟨by decide, by decide, by decide, by decide, by decide, holds_cellsFrom _ _, holds_cellsFrom _ _⟩

theorem witness_OnlyCmdWritesHaveSideEffects :
    (∃ t, hostMove (wr .pageSize 128) ex = .next t) ∧ ¬ writesCmd ex.params (wr .pageSize 128) ∧
    (∃ t, hostMove (.access (.write .obuf 524 32 1)) ex = .next t) ∧
    (∃ t, hostMove (.access (.write .ibuf 511 8 0xFF)) ex = .next t) ∧
    ¬ writesCmd ex.params (.access (.write .ibuf 511 8 0xFF)) ∧
    (∃ t, hostMove (rd .cmd) ex = .next t) ∧ ¬ writesCmd ex.params (rd .cmd) :=
  ⟨⟨_, rfl⟩, id, ⟨_, rfl⟩, ⟨_, rfl⟩, id, ⟨_, rfl⟩, id⟩

/-- Bases 0, 0x1000 and 0x2000: the first and the last address of IBUF lie in its window alone, and
0x28 lies in none. -/
theorem witness_PlatformAddressesReachTheSpaces :
    (∀ a, a = 0x1000 ∨ a = 0x11FF → spaceBase ex.params .ibuf ≤ a ∧
      a < spaceBase ex.params .ibuf + spaceSize ex.params .ibuf ∧
      ∀ sp', sp' ≠ .ibuf → ¬ (spaceBase ex.params sp' ≤ a ∧
        a < spaceBase ex.params sp' + spaceSize ex.params sp')) ∧
    ∀ sp, ¬ (spaceBase ex.params sp ≤ 0x28 ∧
      0x28 < spaceBase ex.params sp + spaceSize ex.params sp) := by
  refine ⟨?_, fun sp => by cases sp <;> decide⟩
  rintro a (rfl | rfl) <;> refine ⟨by decide, by decide, fun sp' h => ?_⟩ <;>
    cases sp' <;> first | exact absurd rfl h | decide

/-- EveryStepKeepsTheInvariant, RomsNeverChange: a HOST step and an ENGINE step. -/
theorem witness_steps :
    (busyEx.Inv ∧ ∃ t, step busyEx = .next t) ∧
    ∃ t, step (ex.aboutToRun 0x02000204) = .next t :=
  ⟨⟨witness_inv_busy, _, rfl⟩, _, rfl⟩

theorem witness_WaitTerminates :
    busyEx.resetLine = false ∧ busyEx.busy = true ∧ busyEx.pending = some 0 ∧
    busyEx.hostTodo = .wait :: [] := by decide

theorem witness_IssueRunsTheCommand :
    { ex with hostTodo := issue .asmBlock }.resetLine = false ∧ ex.busy = false ∧ ex.pending = none ∧
    { ex with hostTodo := issue .asmBlock }.hostTodo = issue .asmBlock ++ [] := by decide

end Sys2Proof.Tests
end

/-! ### The invariant of every step (10_state.md R20 to R44)

The HOST's moves keep the invariant case by case of `HostDid`, the commands case by case of `Writes`;
the assembler's part is that every OBUF write lies inside the page it assembles. -/

namespace Sys2Proof.Machine

/-- OBUF is in canonical form and lies below `n`. -/
def State.ObufWithin (n : Nat) (s : State) : Prop := s.obuf.wf = true ∧ s.obuf.within n = true

section ObufWithin

variable {n : Nat} {s : State}

theorem State.ObufWithin.memWrite (h : s.ObufWithin n) {off : Nat} {bs : List Byte}
    (hb : off + bs.length ≤ n) : (s.memWrite off bs).ObufWithin n :=
  ⟨Memory.wf_store h.1 off bs, Memory.within_store h.2 hb⟩

theorem Layout.outAt_succ (l : Layout) (i : Nat) : l.outAt (i + 1) = l.outAt i + l.page + l.oob := by
  simp only [Layout.outAt, Nat.succ_mul, Nat.add_assoc]

theorem Layout.outAt_mono (l : Layout) {i j : Nat} (h : i ≤ j) : l.outAt i ≤ l.outAt j :=
  Nat.mul_le_mul_right _ h

theorem State.ObufWithin.copyPage (h : s.ObufWithin n) {l : Layout} {i : Nat}
    (hi : l.outAt (i + 1) ≤ n) : (s.copyPage l i).ObufWithin n := by
  have hout := l.outAt_succ i
  refine State.ObufWithin.memWrite (s := s.drew l.page) h ?_
  simp only [State.memRead, Memory.readBytes_length]
  omega

theorem State.ObufWithin.fillOob (h : s.ObufWithin n) {l : Layout} {i : Nat} (b : Byte)
    (hi : l.outAt (i + 1) ≤ n) : (s.fillOob l i b).ObufWithin n := by
  have hout := l.outAt_succ i
  refine h.memWrite ?_
  simp only [Layout.oobAt, List.length_replicate]
  omega

/-- The chunk slots 0 .. m-1 stay below `n` when the last of them ends there (R157). -/
theorem State.ObufWithin.eccSlots (h : s.ObufWithin n) {l : Layout} {i : Nat} {str : BitVec 4}
    (hs : str = 3 ∨ str = 4) {m : Nat} (hm : l.oobAt i + str.toNat * m ≤ n) :
    (s.eccSlots l i str m).ObufWithin n := by
  induction m with
  | zero => exact h
  | succ m ih =>
    rw [Nat.mul_succ] at hm
    have hlow : (s.eccSlots l i str m).ObufWithin n := ih (by omega)
    refine State.ObufWithin.memWrite (s := ((s.eccSlots l i str m).drew 128).setAsmAcc _) hlow ?_
    rw [parityBytes_length _ hs]
    omega

theorem State.ObufWithin.oobFor (h : s.ObufWithin n) {l : Layout} {i : Nat}
    (he : l.mode.isEcc = true → l.page % 128 = 0) (hi : l.outAt (i + 1) ≤ n) :
    (s.oobFor l i).ObufWithin n := by
  have hout := l.outAt_succ i
  have slots : ∀ str : BitVec 4, str = 3 ∨ str = 4 → l.mode.isEcc = true →
      ((s.fillOob l i 0xFF).eccSlots l i str l.chunks).ObufWithin n := fun str hs hm => by
    have hfit := (slots_fit (he hm) hs).1
    exact (h.fillOob 0xFF hi).eccSlots hs (by unfold Layout.oobAt; omega)
  unfold State.oobFor
  cases hm : l.mode with
  | zero => exact h.fillOob _ hi
  | ones => exact h.fillOob _ hi
  | ecc4 => exact slots 4 (.inr rfl) (by rw [hm]; rfl)
  | ecc3 => exact slots 3 (.inl rfl) (by rw [hm]; rfl)

/-- A page is written below the place where the next one begins (R154, R158). -/
theorem State.ObufWithin.assemblePage (h : s.ObufWithin n) {l : Layout} {i : Nat}
    (he : l.mode.isEcc = true → l.page % 128 = 0) (hi : l.outAt (i + 1) ≤ n) :
    (s.assemblePage l i).ObufWithin n := (h.copyPage hi).oobFor he hi

theorem State.ObufWithin.assemblePages (h : s.ObufWithin n) {l : Layout} {m : Nat}
    (he : l.mode.isEcc = true → l.page % 128 = 0) (hm : l.outAt m ≤ n) :
    (s.assemblePages l m).ObufWithin n := by
  induction m with
  | zero => exact h
  | succ m ih =>
    have hlow := l.outAt_mono (i := m) (j := m + 1) (by omega)
    exact (ih (by omega)).assemblePage he hm

end ObufWithin

theorem cfgStored_lt (v : Word) : (cfgStored v).toNat < 64 := by
  rw [cfgStored, BitVec.toNat_and]
  exact Nat.and_lt_two_pow _ (n := 6) (by decide)

theorem ErrCode.code_ne_zero (c : ErrCode) : c.code ≠ 0 := by cases c <;> decide

theorem ErrCode.code_le (c : ErrCode) : c.code.toNat ≤ 13 := by cases c <;> decide

section Inv

variable {s t : State}

/-- Every HOST move that has a step keeps the invariant. -/
theorem HostDid.inv (h : HostDid s t) (hs : s.Inv) : t.Inv := by
  cases h with
  | nothing => exact hs
  | gave v hr => exact { hs with }
  | polled hr hb => exact { hs with }
  | wroteCfg v hb => exact { hs with cfg_reserved := cfgStored_lt v }
  | wrotePageSize v hb => exact { hs with }
  | wroteBlockSize v hb => exact { hs with }
  | issued w hr hb =>
    exact { hs with
      busy_iff := rfl
      err_iff := by simp
      errcode_le := by simp
      busy_noerr := fun _ => rfl
      reset_idle := fun h => by simp [hr] at h }
  | wroteIbuf off bs hb hin =>
    exact { hs with
      ibuf_wf := Memory.wf_store hs.ibuf_wf off bs
      ibuf_within := Memory.within_store hs.ibuf_within hin }
  | wroteObuf off bs hb hin =>
    exact { hs with
      obuf_wf := Memory.wf_store hs.obuf_wf off bs
      obuf_within := Memory.within_store hs.obuf_within hin }
  | assertedReset =>
    exact { hs with
      pgcnt_le := by simp
      pgstr_legal := .inr rfl
      acc3_zero := fun _ => rfl
      busy_iff := rfl
      err_iff := by simp
      errcode_le := by simp
      busy_noerr := fun _ => rfl
      cfg_reserved := by simp
      ibuf_wf := rfl
      ibuf_within := rfl
      obuf_wf := rfl
      obuf_within := rfl
      reset_idle := fun _ => rfl }
  | releasedReset => exact { hs with reset_idle := fun h => by simp at h }

theorem hostStep_inv (h : hostStep s = .next t) (hs : s.Inv) : t.Inv := by
  obtain rfl | ⟨m, rest, -, hm⟩ := hostStep_did h
  · exact hs
  · exact (hostMove_did hm).inv (s := s.setTodo rest) { hs with }

theorem State.succeed_inv (hs : s.Inv) : s.succeed.Inv :=
  { hs with
    busy_iff := rfl
    err_iff := by simp
    errcode_le := by simp
    busy_noerr := fun _ => rfl
    reset_idle := fun _ => rfl }

theorem State.raise_inv (hs : s.Inv) (c : ErrCode) : (s.raise c).Inv :=
  { hs with
    busy_iff := rfl
    err_iff := by simpa using c.code_ne_zero
    errcode_le := c.code_le
    busy_noerr := fun h => by simp at h
    reset_idle := fun _ => rfl }

theorem State.AsmFrame.inv (h : s.AsmFrame t) (hs : s.Inv)
    (ho : t.ObufWithin (obufSize s.params)) : t.Inv := by
  rw [h]
  exact { hs with obuf_wf := ho.1, obuf_within := ho.2 }

/-- What a command writes keeps the invariant (R27, R28, R42, R121). -/
theorem Writes.inv (h : Writes s t) (hs : s.Inv) : t.Inv := by
  have hne4 : s.pgstr = 3 → s.pgstr ≠ 4 := fun h3 => by rw [h3]; decide
  have hobuf : s.ObufWithin (obufSize s.params) := ⟨hs.obuf_wf, hs.obuf_within⟩
  cases h with
  | nothing => exact hs
  | result v => exact { hs with }
  | cleared str hstr =>
    exact { hs with pgcnt_le := by simp, pgstr_legal := hstr, acc3_zero := fun _ => rfl }
  | fed d hd =>
    have hcnt := hs.pgcnt_le
    exact { hs with
      pgcnt_le := by simp only [State.setPg_pgcnt]; bv_omega
      acc3_zero := fun h3 => (pgStep_c3 _ _ _ _ (hne4 h3)).trans (hs.acc3_zero h3) }
  | chunk off =>
    exact { hs with
      pgcnt_le := by simp [State.pgChunk]
      acc3_zero := fun h3 => chunkAcc_c3 _ _ _ (hne4 h3) }
  | page l i hl hi =>
    have hout : l.outAt (i + 1) ≤ obufSize s.params := (l.outAt_mono hi).trans hl.outLen_le
    exact (s.assemblePage_frame l i).inv hs (hobuf.assemblePage hl.ecc_mult hout)
  | block l hl =>
    exact (s.assemblePages_frame l _).inv hs (hobuf.assemblePages hl.ecc_mult hl.outLen_le)

theorem exec_inv {i : Instr} (h : exec i s = .next t) (hs : s.Inv) : t.Inv := by
  obtain ⟨c, -, rfl⟩ | ⟨u, -, hw, rfl⟩ := exec_cases h
  · exact State.raise_inv hs c
  · exact State.succeed_inv (hw.inv hs)

theorem engineStep_inv {w : Word} (h : engineStep w s = .next t) (hs : s.Inv) : t.Inv := by
  obtain ⟨i, -, hi⟩ | rfl := engineStep_cases h
  · exact exec_inv hi hs
  · exact State.raise_inv hs _

end Inv

/-- Settles O50, agent by agent: the ENGINE's step, and the HOST's with or without the countdown. -/
theorem everyStepKeepsTheInvariant : Obligations.EveryStepKeepsTheInvariant := by
  intro s t hs h
  obtain ⟨w, -, -, -, he⟩ | ⟨w, n, -, -, -, hh⟩ | ⟨-, hh⟩ := step_cases h
  · exact engineStep_inv he hs
  · exact hostStep_inv hh (s := s.setDelay n) { hs with }
  · exact hostStep_inv hh hs

/-- The example parameters meet R7, so `implementation` is never an illegal set (log 2). -/
theorem exampleParams_wf : Params.wf exampleParams = true := by decide +kernel

theorem implementation_wf : Params.wf implementation = true := by
  unfold implementation Params.orExample
  split
  · assumption
  · exact exampleParams_wf

/-- Settles O49: the reset values are inside every bound, and the parameters are legal by log 2. -/
theorem resetSatisfiesTheInvariant : Obligations.ResetSatisfiesTheInvariant where
  params_wf := implementation_wf
  rom_eq := rfl
  pgcnt_le := by decide
  pgstr_legal := .inr rfl
  acc3_zero := fun _ => rfl
  busy_iff := rfl
  err_iff := by simp [State.reset]
  errcode_le := by decide
  busy_noerr := fun _ => rfl
  cfg_reserved := by decide
  ibuf_wf := rfl
  ibuf_within := rfl
  obuf_wf := rfl
  obuf_within := rfl
  reset_idle := fun _ => rfl

theorem hostStep_keeps_rom_params {s t : State} (h : hostStep s = .next t) :
    t.rom = s.rom ∧ t.params = s.params := by
  obtain rfl | ⟨m, rest, -, hm⟩ := hostStep_did h
  · exact ⟨rfl, rfl⟩
  · cases hostMove_did hm <;> exact ⟨rfl, rfl⟩

theorem exec_keeps {i : Instr} {s t : State} (h : exec i s = .next t) : CommandKeeps s t := by
  obtain ⟨c, -, rfl⟩ | ⟨u, -, hw, rfl⟩ := exec_cases h
  · exact ⟨rfl, rfl, rfl, rfl, rfl, rfl, rfl, rfl, rfl, rfl⟩
  · exact { hw.keeps with }

/-- Settles O51: `HostDid` has no case that writes a ROM or a parameter, and no command does. -/
theorem romsNeverChange : Obligations.RomsNeverChange := by
  intro s t h
  obtain ⟨w, -, -, -, he⟩ | ⟨w, n, -, -, -, hh⟩ | ⟨-, hh⟩ := step_cases h
  · obtain ⟨i, -, hi⟩ | rfl := engineStep_cases he
    · exact ⟨(exec_keeps hi).rom, (exec_keeps hi).params⟩
    · exact ⟨rfl, rfl⟩
  · exact hostStep_keeps_rom_params (s := s.setDelay n) hh
  · exact hostStep_keeps_rom_params hh

end Sys2Proof.Machine

/-! ### The tables as powers of the generator (10_state.md R20 to R25)

Everything follows from one fact about GF_GEN: its order is 255. Its first 255 powers differ and are
not 0, so by counting they are all nonzero bytes; LOG inverts them; exponents add and count modulo
255. -/

namespace Sys2Proof.Machine

section FieldPowers

variable (p : BitVec 9) {g : Byte}

theorem fieldMul_left_comm (a b c : Byte) :
    fieldMul p a (fieldMul p b c) = fieldMul p b (fieldMul p a c) := by
  rw [← fieldMul_assoc, fieldMul_comm p a b, fieldMul_assoc]

/-- Exponents count modulo 255. -/
theorem fieldPow_mod (hg : hasOrder255 p g = true) (n : Nat) :
    fieldPow p g n = fieldPow p g (n % 255) := by
  obtain ⟨h255, -⟩ := (hasOrder255_iff p g).1 hg
  induction n using Nat.strongRecOn with
  | ind n ih =>
    rcases Nat.lt_or_ge n 255 with hlt | hge
    · rw [Nat.mod_eq_of_lt hlt]
    · obtain ⟨m, rfl⟩ := Nat.exists_eq_add_of_le hge
      rw [fieldPow_add, h255, Nat.add_mod_left, ← ih m (by omega)]
      exact fieldMul_one_left p _

/-- A power has the inverse power, so it is not 0. -/
theorem fieldPow_ne_zero (hg : hasOrder255 p g = true) (n : Nat) : fieldPow p g n ≠ 0 := by
  intro h0
  obtain ⟨h255, -⟩ := (hasOrder255_iff p g).1 hg
  have hlt : n % 255 < 255 := Nat.mod_lt _ (by decide)
  have hinv : fieldMul p (fieldPow p g (n % 255)) (fieldPow p g (255 - n % 255)) = 1 := by
    rw [← fieldPow_add, Nat.add_sub_cancel' hlt.le, h255]
  rw [← fieldPow_mod p hg, h0] at hinv
  simp at hinv

/-- Two equal powers below 255 have equal exponents: otherwise a power between 0 and 255 is 1. -/
theorem fieldPow_injOn (hg : hasOrder255 p g = true) :
    Set.InjOn (fieldPow p g) (Finset.range 255) := by
  obtain ⟨h255, hne⟩ := (hasOrder255_iff p g).1 hg
  have key : ∀ i j, i < j → j < 255 → fieldPow p g i ≠ fieldPow p g j := by
    intro i j hij hj he
    refine hne (j - i) (by omega) (by omega) ?_
    calc fieldPow p g (j - i)
        = fieldPow p g (255 + (j - i)) := by
          rw [fieldPow_add, h255]
          exact (fieldMul_one_left p _).symm
      _ = fieldPow p g (j + (255 - i)) := by congr 1; omega
      _ = fieldPow p g (i + (255 - i)) := by rw [fieldPow_add, ← he, ← fieldPow_add]
      _ = 1 := by rw [Nat.add_sub_cancel' (by omega), h255]
  intro i hi j hj he
  rw [Finset.mem_coe, Finset.mem_range] at hi hj
  rcases Nat.lt_trichotomy i j with h | h | h
  · exact absurd he (key i j h hj)
  · exact h
  · exact absurd he.symm (key j i h hi)

/-- The 255 powers are 255 different nonzero bytes, and there are no more: each nonzero byte is one. -/
theorem exists_fieldPow_eq (hg : hasOrder255 p g = true) {a : Byte} (ha : a ≠ 0) :
    ∃ e, e < 255 ∧ fieldPow p g e = a := by
  have nonzero : ∀ {b : Byte}, b ≠ 0 → b.toNat ∈ (Finset.Ioo 0 256 : Finset Nat) := fun {b} hb => by
    have : b.toNat ≠ 0 := fun h => hb (BitVec.eq_of_toNat_eq h)
    exact Finset.mem_Ioo.2 ⟨by omega, b.isLt⟩
  have hsurj : Set.SurjOn (fun e => (fieldPow p g e).toNat) (Finset.range 255)
      (Finset.Ioo 0 256 : Finset Nat) :=
    Finset.surjOn_of_injOn_of_card_le _ (fun e _ => nonzero (fieldPow_ne_zero p hg e))
      (fun i hi j hj he => fieldPow_injOn p hg hi hj (BitVec.eq_of_toNat_eq he)) (by simp)
  obtain ⟨e, he, hea⟩ := hsurj (nonzero ha)
  exact ⟨e, by simpa using he, BitVec.eq_of_toNat_eq hea⟩

end FieldPowers

section Tables

variable {p : Params}

/-- A legal generator has order 255. -/
theorem hasOrder255_gfGen (h : Params.wf p = true) : hasOrder255 p.gfPoly p.gfGen = true := by
  simp only [Params.wf, Bool.and_eq_true] at h
  obtain ⟨⟨⟨-, hgen⟩, -⟩, -⟩ := h
  exact hgen

/-- ALOG is the power of its index at every index, 255 included: GF_GEN^255 = 1 (R20). -/
theorem alogAt_eq_fieldPow (h : Params.wf p = true) (e : Byte) :
    alogAt (romOf p) e = fieldPow p.gfPoly p.gfGen e.toNat := by
  rw [alogAt_romOf, alogEntry]
  split
  · next he => rw [he, ((hasOrder255_iff _ _).1 (hasOrder255_gfGen h)).1]
  · rfl

/-- Below 255 an ALOG entry names its index. -/
theorem alogAt_inj (h : Params.wf p = true) {e e' : Byte} (he : e.toNat ≤ 254) (he' : e'.toNat ≤ 254)
    (heq : alogAt (romOf p) e = alogAt (romOf p) e') : e = e' := by
  rw [alogAt_eq_fieldPow h, alogAt_eq_fieldPow h] at heq
  exact BitVec.eq_of_toNat_eq (fieldPow_injOn _ (hasOrder255_gfGen h) (by simp; omega)
    (by simp; omega) heq)

/-- An ALOG entry at an exponent modulo 255 is the power of the exponent. -/
theorem alogAt_ofNat_mod (h : Params.wf p = true) (n : Nat) :
    alogAt (romOf p) (BitVec.ofNat 8 (n % 255)) = fieldPow p.gfPoly p.gfGen n := by
  have hlt : n % 255 < 255 := Nat.mod_lt _ (by decide)
  rw [alogAt_eq_fieldPow h, BitVec.toNat_ofNat, Nat.mod_eq_of_lt (by omega),
    ← fieldPow_mod _ (hasOrder255_gfGen h)]

/-- Each nonzero byte has a place in ALOG below 255 (R20). -/
theorem exists_alogAt_eq (h : Params.wf p = true) {a : Byte} (ha : a ≠ 0) :
    ∃ e : Byte, e.toNat ≤ 254 ∧ alogAt (romOf p) e = a := by
  obtain ⟨e, he, hea⟩ := exists_fieldPow_eq _ (hasOrder255_gfGen h) ha
  refine ⟨BitVec.ofNat 8 (e % 255), ?_, (alogAt_ofNat_mod h e).trans hea⟩
  rw [BitVec.toNat_ofNat]
  omega

theorem logAt_zero (p : Params) : logAt (romOf p) 0 = p.log0 := by
  rw [logAt_romOf]
  rfl

/-- The first place of `f e` in a table of `f`, when no earlier entry is the same. -/
theorem idxOf_tableOf {f : Nat → Byte} {e : Nat} (he : e < 256) (hfirst : ∀ j < e, f j ≠ f e) :
    (tableOf f).toList.idxOf (f e) = e := by
  have hlist : (tableOf f).toList = (List.range 256).map f := by simp [tableOf]
  rw [hlist, List.idxOf, List.findIdx_eq (by simpa using he)]
  simpa using hfirst

/-- LOG finds the place of an ALOG entry below 255 (R21). -/
theorem logAt_alogAt (h : Params.wf p = true) {e : Byte} (he : e.toNat ≤ 254) :
    logAt (romOf p) (alogAt (romOf p) e) = e := by
  have hne : (alogAt (romOf p) e).toNat ≠ 0 := fun h0 =>
    fieldPow_ne_zero _ (hasOrder255_gfGen h) _
      ((alogAt_eq_fieldPow h e).symm.trans (BitVec.eq_of_toNat_eq h0))
  have hfirst : ∀ j < e.toNat, alogEntry p j ≠ alogEntry p e.toNat := fun j hj heq => by
    have hj' : (BitVec.ofNat 8 j).toNat = j := by rw [BitVec.toNat_ofNat]; omega
    have := alogAt_inj h (e := BitVec.ofNat 8 j) (by omega) he
      (by rw [alogAt_romOf, alogAt_romOf, hj', heq])
    rw [← this] at hj
    omega
  rw [logAt_romOf, logEntry, if_neg hne, BitVec.ofNat_toNat, BitVec.setWidth_eq, alogAt_romOf,
    idxOf_tableOf (by omega) hfirst, BitVec.ofNat_toNat, BitVec.setWidth_eq]

/-- LOG of a nonzero byte is its place in ALOG below 255 (R21). -/
theorem logAt_spec (h : Params.wf p = true) {a : Byte} (ha : a ≠ 0) :
    (logAt (romOf p) a).toNat ≤ 254 ∧ alogAt (romOf p) (logAt (romOf p) a) = a := by
  obtain ⟨e, he, rfl⟩ := exists_alogAt_eq h ha
  rw [logAt_alogAt h he]
  exact ⟨he, rfl⟩

/-- The table product of nonzero operands is the field product: exponents add (R23). -/
theorem alogAt_log_add_log (h : Params.wf p = true) {a b : Byte} (ha : a ≠ 0) (hb : b ≠ 0) :
    alogAt (romOf p)
        (BitVec.ofNat 8 (((logAt (romOf p) a).toNat + (logAt (romOf p) b).toNat) % 255))
      = fieldMul p.gfPoly a b := by
  rw [alogAt_ofNat_mod h, fieldPow_add, ← alogAt_eq_fieldPow h, ← alogAt_eq_fieldPow h,
    (logAt_spec h ha).2, (logAt_spec h hb).2]

/-- `gf_mul` on legal ROMs is the field product (R23, R101). -/
theorem gfMul_eq_fieldMul (h : Params.wf p = true) (a b : Byte) :
    gfMul (romOf p) a b = fieldMul p.gfPoly a b := by
  unfold gfMul
  split
  · next h0 => rcases h0 with rfl | rfl <;> simp
  · next h0 =>
    obtain ⟨ha, hb⟩ := not_or.1 h0
    exact alogAt_log_add_log h ha hb

end Tables

theorem State.Inv.gfMul_eq {s : State} (hs : s.Inv) (a b : Byte) :
    gfMul s.rom a b = fieldMul s.params.gfPoly a b := by
  rw [hs.rom_eq, gfMul_eq_fieldMul hs.params_wf]

/-- Settles O14: order 255 makes the powers 255 different nonzero bytes. -/
theorem alogHoldsEveryNonzeroElementOnce : Obligations.AlogHoldsEveryNonzeroElementOnce := by
  intro s hs
  have hp := hs.params_wf
  have h255 := ((hasOrder255_iff _ _).1 (hasOrder255_gfGen hp)).1
  rw [hs.rom_eq]
  refine ⟨fun e _ => alogAt_eq_fieldPow hp e, ?_, ?_, fun e => ?_, fun a ha => ?_⟩
  · rw [alogAt_eq_fieldPow hp, alogAt_eq_fieldPow hp]
    exact h255
  · rw [alogAt_eq_fieldPow hp]
    rfl
  · rw [alogAt_eq_fieldPow hp]
    exact fieldPow_ne_zero _ (hasOrder255_gfGen hp) _
  · obtain ⟨e, he, hea⟩ := exists_alogAt_eq hp ha
    exact ⟨e, ⟨he, hea⟩, fun e' he' hea' => alogAt_inj hp he' he (hea'.trans hea.symm)⟩

/-- Settles O15: the first place of a nonzero byte in ALOG is its one place below 255. -/
theorem logInvertsAlog : Obligations.LogInvertsAlog := by
  intro s hs
  have hp := hs.params_wf
  rw [hs.rom_eq]
  refine ⟨logAt_zero _, fun a ha => ?_⟩
  obtain ⟨hle, halog⟩ := logAt_spec hp ha
  exact ⟨hle, halog, fun e he hea => alogAt_inj hp he hle (hea.trans halog.symm)⟩

/-- Settles O16: exponents add under the field product, and count modulo 255. -/
theorem tableProductIsFieldProduct : Obligations.TableProductIsFieldProduct := by
  intro s hs
  refine ⟨fun a b ha hb => ?_, hs.gfMul_eq⟩
  rw [hs.rom_eq]
  exact alogAt_log_add_log hs.params_wf ha hb

/-- The product of two powers of x of degree sum below 8 needs no reduction (R11, R24). -/
theorem fieldMul_shiftLeft_one (p : BitVec 9) {i j : Nat} (h : i + j < 8) :
    fieldMul p (1#8 <<< i) (1#8 <<< j) = 1#8 <<< (i + j) := by
  rw [fieldMul_pow_right p _ j (by omega), ← iterate_xtime_one p i (by omega),
    ← Function.iterate_add_apply, Nat.add_comm, iterate_xtime_one p _ h]

/-- (v + a)(v + b)(v + c) by its coefficients, the sums and products of the roots. -/
theorem fieldMul_three_roots (p : BitVec 9) (v a b c : Byte) :
    fieldMul p (fieldMul p (v ^^^ a) (v ^^^ b)) (v ^^^ c)
      = fieldMul p (fieldMul p v v) v ^^^ fieldMul p (a ^^^ b ^^^ c) (fieldMul p v v)
        ^^^ fieldMul p (fieldMul p a b ^^^ fieldMul p a c ^^^ fieldMul p b c) v
        ^^^ fieldMul p (fieldMul p a b) c := by
  simp only [fieldMul_xor_right, fieldMul_comm p, fieldMul_left_comm p,
    BitVec.xor_assoc, BitVec.xor_comm, byte_xor_left_comm]

/-- Settles O18: the roots are 2 = x, 4 = x^2, 8 = x^3, whose products stay below degree 8, and the
cubic is multiplied out for any three roots. -/
theorem ecc3CoefficientsAreTheProduct : Obligations.Ecc3CoefficientsAreTheProduct := by
  intro s hs
  have h24 : fieldMul s.params.gfPoly 0x02 0x04 = 0x08 :=
    fieldMul_shiftLeft_one _ (i := 1) (j := 2) (by decide)
  have h28 : fieldMul s.params.gfPoly 0x02 0x08 = 0x10 :=
    fieldMul_shiftLeft_one _ (i := 1) (j := 3) (by decide)
  have h48 : fieldMul s.params.gfPoly 0x04 0x08 = 0x20 :=
    fieldMul_shiftLeft_one _ (i := 2) (j := 3) (by decide)
  have h88 : fieldMul s.params.gfPoly 0x08 0x08 = 0x40 :=
    fieldMul_shiftLeft_one _ (i := 3) (j := 3) (by decide)
  simp only [hs.gfMul_eq, gfAdd]
  refine ⟨rfl, rfl, rfl, by decide, ?_, ?_, fun v => ?_⟩
  · rw [h24, h28, h48]; decide
  · rw [h24, h88]; rfl
  · rw [fieldMul_three_roots, h24, h28, h48, h88]; rfl

end Sys2Proof.Machine

namespace Sys2Proof.Machine

/-! ### What each command leaves (O34) -/

/-- The commands that leave RESULT (R37). -/
def KeepsResult (i : Instr) : Prop :=
  i = .nop ∨ (∃ str, i = .pgClr str) ∨ (∃ d, i = .pgByte d) ∨ (∃ k, i = .asmPage k) ∨ i = .asmBlock

/-- The fields that command `i` leaves, besides those that no command writes (`CommandKeeps`). -/
structure LeavesUnwritten (i : Instr) (s t : State) : Prop where
  pgstr : (∀ str, i ≠ .pgClr str) → t.pgstr = s.pgstr
  acc_pgcnt : (∀ str, i ≠ .pgClr str) → (∀ d, i ≠ .pgByte d) → (∀ k, i ≠ .pgChunk k) →
    t.acc = s.acc ∧ t.pgcnt = s.pgcnt
  result : KeepsResult i → t.result = s.result
  asmAcc_obuf : (∀ k, i ≠ .asmPage k) → i ≠ .asmBlock → t.asmAcc = s.asmAcc ∧ t.obuf = s.obuf

theorem LeavesUnwritten.refl (i : Instr) (s : State) : LeavesUnwritten i s s :=
  ⟨fun _ => rfl, fun _ _ _ => ⟨rfl, rfl⟩, fun _ => rfl, fun _ _ => ⟨rfl, rfl⟩⟩

theorem LeavesUnwritten.setResult {i : Instr} (hi : ¬ KeepsResult i) (s : State) (v : Word) :
    LeavesUnwritten i s (s.setResult v) :=
  ⟨fun _ => rfl, fun _ _ _ => ⟨rfl, rfl⟩, fun h => absurd h hi, fun _ _ => ⟨rfl, rfl⟩⟩

/-- The assembler's frame, for a command that may write OBUF. -/
theorem State.AsmFrame.leavesUnwritten {i : Instr} {s t : State} (h : s.AsmFrame t)
    (hi : (∃ k, i = .asmPage k) ∨ i = .asmBlock) : LeavesUnwritten i s t := by
  rw [h]
  exact ⟨fun _ => rfl, fun _ _ _ => ⟨rfl, rfl⟩, fun _ => rfl,
    fun h1 h2 => hi.elim (fun ⟨k, hk⟩ => absurd hk (h1 k)) (fun hk => absurd hk h2)⟩

/-- A command without an error writes only its own fields. -/
theorem leavesUnwritten_of_outcome_ok {i : Instr} {s u : State} (h : outcome i s = .ok u) :
    LeavesUnwritten i s u := by
  cases i with
  | nop => cases h; exact .refl _ s
  | gfAdd | gfMul | gfLog | gfAlog => cases h; exact .setResult (by simp [KeepsResult]) s _
  | pgClr | pgByte =>
    simp only [outcome] at h
    split at h <;> cases h
    constructor <;> simp
  | pgPar =>
    simp only [outcome] at h
    split at h <;> cases h
    exact .setResult (by simp [KeepsResult]) s _
  | pgChunk k =>
    simp only [outcome] at h
    split at h <;> cases h
    constructor <;> simp [State.pgChunk, KeepsResult]
  | asmPage k =>
    simp only [outcome] at h
    split at h
    · cases h
    · split at h <;> cases h
      exact (State.assemblePage_frame s _ _).leavesUnwritten (.inl ⟨k, rfl⟩)
  | asmBlock =>
    simp only [outcome] at h
    split at h <;> cases h
    exact (State.assemblePages_frame s _ _).leavesUnwritten (.inr rfl)

theorem exec_leavesUnwritten {i : Instr} {s t : State} (h : exec i s = .next t) :
    LeavesUnwritten i s t := by
  obtain ⟨c, -, rfl⟩ | ⟨u, hu, -, rfl⟩ := exec_cases h
  · exact { LeavesUnwritten.refl i s with }
  · exact { leavesUnwritten_of_outcome_ok hu with }

/-- Settles O34: what no command writes, and what the command at hand does not write. -/
theorem commandFrame : Obligations.CommandFrame := by
  intro i s t h
  obtain ⟨hparams, hrom, hibuf, hcfg, hpage, hblock, hreset, hdelay, htodo, hgot⟩ := exec_keeps h
  obtain ⟨hpgstr, hacc, hresult, hobuf⟩ := exec_leavesUnwritten h
  exact ⟨⟨hparams, hrom, hibuf, hcfg, hpage, hblock, hreset, hdelay, htodo, hgot⟩, hpgstr, hacc,
    hresult, fun h1 h2 => ⟨(hobuf h1 h2).1, fun a => by rw [(hobuf h1 h2).2]⟩⟩

/-! ### The assembler's own accumulator (O33)

A step from `s.setAsmAcc x` answers what the step from `s` answers, but for the assembler's own
accumulator. -/

/-- `f` reads nothing of the assembler's own accumulator. -/
def IgnoresAsmAcc (f : State → State) : Prop :=
  ∀ s x, ∃ y, f (s.setAsmAcc x) = (f s).setAsmAcc y

theorem IgnoresAsmAcc.comp {f g : State → State} (hg : IgnoresAsmAcc g) (hf : IgnoresAsmAcc f) :
    IgnoresAsmAcc (fun s => g (f s)) := fun s x => by
  obtain ⟨y, hy⟩ := hf s x
  obtain ⟨z, hz⟩ := hg (f s) y
  exact ⟨z, by rw [← hz, ← hy]⟩

theorem ignoresAsmAcc_copyPage (l : Layout) (i : Nat) : IgnoresAsmAcc (·.copyPage l i) :=
  fun _ x => ⟨x, rfl⟩

theorem ignoresAsmAcc_fillOob (l : Layout) (i : Nat) (b : Byte) :
    IgnoresAsmAcc (·.fillOob l i b) := fun _ x => ⟨x, rfl⟩

/-- A chunk slot overwrites the assembler's own accumulator: it starts from zero (R29, R157). -/
theorem ignoresAsmAcc_eccSlot (l : Layout) (i : Nat) (str : BitVec 4) (k : Nat) :
    IgnoresAsmAcc (·.eccSlot l i str k) := fun s _ =>
  ⟨(s.eccSlot l i str k).asmAcc, by
    simp only [State.eccSlot, State.memRead, State.drew, State.setAsmAcc, State.memWrite]⟩

theorem ignoresAsmAcc_eccSlots (l : Layout) (i : Nat) (str : BitVec 4) (n : Nat) :
    IgnoresAsmAcc (·.eccSlots l i str n) := by
  induction n with
  | zero => exact fun _ x => ⟨x, rfl⟩
  | succ n ih => exact (ignoresAsmAcc_eccSlot l i str n).comp ih

theorem ignoresAsmAcc_oobFor (l : Layout) (i : Nat) : IgnoresAsmAcc (·.oobFor l i) := by
  unfold State.oobFor
  cases l.mode with
  | zero => exact ignoresAsmAcc_fillOob l i _
  | ones => exact ignoresAsmAcc_fillOob l i _
  | ecc4 => exact (ignoresAsmAcc_eccSlots l i _ _).comp (ignoresAsmAcc_fillOob l i _)
  | ecc3 => exact (ignoresAsmAcc_eccSlots l i _ _).comp (ignoresAsmAcc_fillOob l i _)

theorem ignoresAsmAcc_assemblePage (l : Layout) (i : Nat) : IgnoresAsmAcc (·.assemblePage l i) :=
  (ignoresAsmAcc_oobFor l i).comp (ignoresAsmAcc_copyPage l i)

theorem ignoresAsmAcc_assemblePages (l : Layout) (n : Nat) :
    IgnoresAsmAcc (·.assemblePages l n) := by
  induction n with
  | zero => exact fun _ x => ⟨x, rfl⟩
  | succ n ih => exact (ignoresAsmAcc_assemblePage l n).comp ih

/-- The outcome with `f` applied to its next state, if it has one. -/
def onNext (f : State → State) :
    Host.Outcome State Fault Refusal → Host.Outcome State Fault Refusal
  | .next t => .next (f t)
  | .fault r => .fault r
  | .refused r => .refused r

section SetAsmAcc

variable (s : State) (x : Cells)

theorem State.pgChunk_setAsmAcc (off : Nat) :
    (s.setAsmAcc x).pgChunk off = (s.pgChunk off).setAsmAcc x := by
  simp only [State.pgChunk, State.memRead, State.drew, State.setPg, State.setResult, State.setAsmAcc]

theorem outcome_setAsmAcc (i : Instr) :
    ∃ y, outcome i (s.setAsmAcc x) = (outcome i s).map (·.setAsmAcc y) := by
  cases i with
  | nop | gfAdd | gfMul | gfLog | gfAlog => exact ⟨x, rfl⟩
  | pgClr | pgByte | pgPar =>
    refine ⟨x, ?_⟩
    simp only [outcome, apply_ite (Except.map _)]
    rfl
  | pgChunk k =>
    refine ⟨x, ?_⟩
    simp only [outcome, apply_ite (Except.map _), State.pgChunk_setAsmAcc]
    rfl
  | asmPage k =>
    have hcheck : checkCfg (s.setAsmAcc x) = checkCfg s := rfl
    simp only [outcome, hcheck]
    cases checkCfg s with
    | error c => exact ⟨x, rfl⟩
    | ok l =>
      obtain ⟨y, hy⟩ := ignoresAsmAcc_assemblePage l (pageIndex k) s x
      refine ⟨y, ?_⟩
      dsimp only at hy ⊢
      rw [hy, apply_ite (Except.map _)]
      rfl
  | asmBlock =>
    have hcheck : checkCfg (s.setAsmAcc x) = checkCfg s := rfl
    simp only [outcome, hcheck]
    cases checkCfg s with
    | error c => exact ⟨x, rfl⟩
    | ok l =>
      obtain ⟨y, hy⟩ := ignoresAsmAcc_assemblePages l l.pages s x
      exact ⟨y, congrArg Except.ok hy⟩

theorem exec_setAsmAcc (i : Instr) :
    ∃ y, exec i (s.setAsmAcc x) = onNext (·.setAsmAcc y) (exec i s) := by
  obtain ⟨y, hy⟩ := outcome_setAsmAcc s x i
  simp only [exec_eq, hy]
  cases outcome i s with
  | error c => exact ⟨x, rfl⟩
  | ok u => exact ⟨y, rfl⟩

theorem engineStep_setAsmAcc (w : Word) :
    ∃ y, engineStep w (s.setAsmAcc x) = onNext (·.setAsmAcc y) (engineStep w s) := by
  unfold engineStep
  cases decode w with
  | ok i => exact exec_setAsmAcc s x i
  | error e => exact ⟨x, rfl⟩

theorem hostAccess_setAsmAcc (a : Access) :
    hostAccess a (s.setAsmAcc x) = onNext (·.setAsmAcc x) (hostAccess a s) := by
  have hrefuses : (s.setAsmAcc x).refuses a = s.refuses a := by cases a <;> rfl
  have hperforms : (s.setAsmAcc x).performs a = (s.performs a).setAsmAcc x := by
    cases a with
    | read sp off w => cases sp <;> rfl
    | write sp off w v =>
      cases sp with
      | reg =>
        simp only [State.performs, State.hostWrite]
        cases regAt off with
        | none => rfl
        | some r => cases r <;> rfl
      | ibuf => rfl
      | obuf => rfl
  unfold hostAccess
  rw [hrefuses, hperforms]
  cases s.refuses a <;> rfl

/-- Every HOST move; asserting reset gives the assembler's own accumulator its reset value (log 11). -/
theorem hostMove_setAsmAcc (m : HostMove) :
    ∃ y, hostMove m (s.setAsmAcc x) = onNext (·.setAsmAcc y) (hostMove m s) := by
  cases m with
  | access a => exact ⟨x, hostAccess_setAsmAcc s x a⟩
  | readAt addr w =>
    simp only [hostMove, State.setAsmAcc_params]
    cases locate s.params addr with
    | none => exact ⟨x, rfl⟩
    | some place => exact ⟨x, hostAccess_setAsmAcc s x _⟩
  | writeAt addr w v =>
    simp only [hostMove, State.setAsmAcc_params]
    cases locate s.params addr with
    | none => exact ⟨x, rfl⟩
    | some place => exact ⟨x, hostAccess_setAsmAcc s x _⟩
  | wait =>
    have hrefuses : (s.setAsmAcc x).refusesAt .reg 0x10 32 = s.refusesAt .reg 0x10 32 := rfl
    simp only [hostMove, hostWait, hrefuses, State.setAsmAcc_busy]
    cases s.refusesAt .reg 0x10 32 with
    | some r => exact ⟨x, rfl⟩
    | none => exact ⟨x, by by_cases hb : s.busy = true <;> simp only [hb] <;> rfl⟩
  | assertReset => exact ⟨Cells.zero, rfl⟩
  | releaseReset => exact ⟨x, rfl⟩

theorem hostStep_setAsmAcc :
    ∃ y, hostStep (s.setAsmAcc x) = onNext (·.setAsmAcc y) (hostStep s) := by
  unfold hostStep
  rw [State.setAsmAcc_hostTodo]
  cases s.hostTodo with
  | nil => exact ⟨x, rfl⟩
  | cons m rest => exact hostMove_setAsmAcc (s.setTodo rest) x m

theorem step_setAsmAcc : ∃ y, step (s.setAsmAcc x) = onNext (·.setAsmAcc y) (step s) := by
  unfold step nextStep
  rw [State.setAsmAcc_resetLine, State.setAsmAcc_pending, State.setAsmAcc_delay]
  cases s.resetLine with
  | true => exact hostStep_setAsmAcc s x
  | false =>
    cases s.pending with
    | none => exact hostStep_setAsmAcc s x
    | some w =>
      cases s.delay with
      | zero => exact engineStep_setAsmAcc s x w
      | succ n => exact hostStep_setAsmAcc (s.setDelay n) x

end SetAsmAcc

/-- Settles O33: both steps answer the same but for the assembler's own accumulator. -/
theorem privateAccumulatorIsUnobservable : Obligations.PrivateAccumulatorIsUnobservable := by
  intro s x
  obtain ⟨y, hy⟩ := step_setAsmAcc s x
  exact ⟨fun t ht => ⟨y, hy.trans (by rw [ht]; rfl)⟩, fun r hr => hy.trans (by rw [hr]; rfl)⟩

/-! ### Registers and reset values (O39, O40, O47) -/

/-- Settles O39: while idle no register reads as a free value. -/
theorem registerReadsWhenIdle : Obligations.RegisterReadsWhenIdle := by
  intro s hr hb
  have hsettled : ∀ v, s.settled v = v := fun v => by simp [State.settled, hb]
  simp only [hostMove_rd hr, State.readReg, hsettled, State.status, statusWord, hb]
  exact ⟨rfl, rfl, rfl, rfl, rfl, rfl, rfl, rfl, rfl, rfl⟩

theorem cfgStored_extractLsb'_low (v : Word) :
    (cfgStored v).extractLsb' 0 6 = v.extractLsb' 0 6 := by
  rw [cfgStored, BitVec.extractLsb'_and,
    show (0x3F : Word).extractLsb' 0 6 = BitVec.allOnes 6 by decide, BitVec.and_allOnes]

theorem cfgStored_extractLsb'_high (v : Word) : (cfgStored v).extractLsb' 6 26 = 0#26 := by
  rw [cfgStored, BitVec.extractLsb'_and,
    show (0x3F : Word).extractLsb' 6 26 = 0#26 by decide, BitVec.and_zero]

/-- Settles O40: an idle block accepts every register write, and read-only registers ignore it. -/
theorem registerWritesWhenIdle : Obligations.RegisterWritesWhenIdle := by
  intro s v hr hb
  have hwr : ∀ r, hostMove (wr r v) s = .next (s.writeReg r v) := fun r => by
    simp [hostMove_wr hr, hb]
  exact ⟨⟨cfgStored v, hwr .cfg, cfgStored_extractLsb'_low v, cfgStored_extractLsb'_high v⟩,
    hwr .pageSize, hwr .blockSize, hwr .status, hwr .result, hwr .accv, hwr .pgstate, hwr .mode,
    hwr .outlen⟩

/-- Settles O47: `State.reset` has these fields, and its views are closed terms. -/
theorem resetValues : Obligations.ResetValues :=
  ⟨rfl, rfl, rfl, rfl, rfl, rfl, rfl, rfl, rfl, rfl, rfl, rfl, fun _ => ⟨rfl, rfl⟩,
    by decide, by decide, by decide, by decide, by decide⟩

end Sys2Proof.Machine

namespace Sys2Proof.Machine

open Claims

/-! ### Which accesses have a step (O43) -/

/-- The register map holds exactly the aligned offsets of the REG space (10_state.md R31). -/
theorem regAt_eq_none_iff (off : Nat) : regAt off = none ↔ off % 4 ≠ 0 ∨ 0x28 < off + 4 := by
  unfold regAt
  split_ifs <;> simp <;> omega

theorem aligned_iff (off w : Nat) : aligned off w = true ↔ (w = 32 → off % 4 = 0) := by
  simp [aligned, imp_iff_not_or]

theorem inRange_iff (p : Params) (sp : Space) (off w : Nat) :
    inRange p sp off w = true ↔ off + w / 8 ≤ spaceSize p sp := by
  simp [inRange]

/-- The model's checks of an access's shape are R61 to R63 as written out in `badShape`. -/
theorem shape_checks_iff (p : Params) (sp : Space) (off w : Nat) :
    (widthAllowed sp w = true ∧ aligned off w = true ∧ ¬ (sp = .reg ∧ regAt off = none) ∧
      inRange p sp off w = true) ↔ ¬ badShape p (.read sp off w) := by
  rw [aligned_iff, inRange_iff, regAt_eq_none_iff]
  cases sp with
  | reg =>
    simp only [badShape, target, widthAllowed, spaceSize, beq_iff_eq, true_and]
    constructor
    · rintro ⟨rfl, h⟩
      omega
    · intro h
      obtain rfl : w = 32 := by omega
      omega
  | ibuf =>
    simp only [badShape, target, widthAllowed, spaceSize, beq_iff_eq, Bool.or_eq_true, reduceCtorEq,
      false_and, not_false_eq_true, true_and]
    omega
  | obuf =>
    simp only [badShape, target, widthAllowed, spaceSize, obufSize, beq_iff_eq, Bool.or_eq_true,
      reduceCtorEq, false_and, not_false_eq_true, true_and]
    omega

theorem refusesAt_eq_none_iff (s : State) (sp : Space) (off w : Nat) :
    s.refusesAt sp off w = none ↔
      s.resetLine = false ∧ ¬ badShape s.params (.read sp off w) := by
  rw [← shape_checks_iff]
  constructor
  · intro h
    obtain ⟨hr, hw, ha, hu, hi⟩ := refusesAt_none h
    exact ⟨hr, hw, ha, hu, (inRange_iff _ _ _ _).2 hi⟩
  · rintro ⟨hr, hw, ha, hu, hi⟩
    simp [State.refusesAt, hr, hw, ha, hu, hi]

/-- The offsets of the four hazard registers, and both buffers (70_reset_and_hazards.md R233). -/
theorem writeHazard_iff (sp : Space) (off w : Nat) (v : Word) :
    writeHazard sp off = true ↔ hazardousWrite (.write sp off w v) := by
  cases sp with
  | reg =>
    simp only [writeHazard, hazardousWrite]
    cases hreg : regAt off with
    | none =>
      have := (regAt_eq_none_iff off).1 hreg
      simp only [Bool.false_eq_true, false_iff]
      omega
    | some r => rw [regOffset_of_regAt hreg]; cases r <;> decide
  | ibuf => simp [writeHazard, hazardousWrite]
  | obuf => simp [writeHazard, hazardousWrite]

theorem refuses_write_eq_none_iff (s : State) (sp : Space) (off w : Nat) (v : Word) :
    s.refuses (.write sp off w v) = none ↔
      s.refusesAt sp off w = none ∧ ¬ (s.busy = true ∧ writeHazard sp off = true) := by
  simp only [State.refuses, ← Bool.and_eq_true]
  cases s.refusesAt sp off w with
  | some r => simp
  | none => cases s.busy && writeHazard sp off <;> simp

theorem refuses_eq_none_iff (s : State) (a : Access) :
    s.refuses a = none ↔
      ¬ (s.resetLine = true ∨ badShape s.params a ∨ (s.busy = true ∧ hazardousWrite a)) := by
  rw [not_or, not_or, Bool.not_eq_true, ← and_assoc]
  cases a with
  | read sp off w => simp [State.refuses, refusesAt_eq_none_iff, hazardousWrite]
  | write sp off w v =>
    rw [refuses_write_eq_none_iff, refusesAt_eq_none_iff, writeHazard_iff sp off w v]
    rfl

/-- Settles O43: an access has a step exactly when nothing refuses it. -/
theorem refusedAccesses : Obligations.RefusedAccesses := by
  intro s a
  refine ⟨(hostAccess_refused_iff a s).trans ?_, (hostAccess_next_iff a s).trans ?_⟩
  · rw [ne_eq, refuses_eq_none_iff, not_not]
  · exact refuses_eq_none_iff s a

/-! ### Platform addresses (O46) -/

theorem inWindow_iff (p : Params) (addr : Nat) (sp : Space) :
    inWindow p addr sp = true ↔
      spaceBase p sp ≤ addr ∧ addr < spaceBase p sp + spaceSize p sp := by
  simp [inWindow]

theorem locate_of_one_window {p : Params} {addr : Nat} {sp : Space} (h : inWindow p addr sp = true)
    (hone : ∀ sp', sp' ≠ sp → inWindow p addr sp' = false) :
    locate p addr = some (sp, addr - spaceBase p sp) := by
  have hfilter : [Space.reg, Space.ibuf, Space.obuf].filter (inWindow p addr) = [sp] := by
    cases sp <;> simp [List.filter, h, hone]
  rw [locate, hfilter]

theorem locate_of_no_window {p : Params} {addr : Nat} (h : ∀ sp, inWindow p addr sp = false) :
    locate p addr = none := by
  simp [locate, h]

/-- Settles O46: the windows that hold the address decide where it leads. -/
theorem platformAddressesReachTheSpaces : Obligations.PlatformAddressesReachTheSpaces := by
  intro s addr w v
  simp only [← inWindow_iff, Bool.not_eq_true]
  refine ⟨fun sp hle hlt hone => ?_, fun hnone => ?_⟩
  · have hloc := locate_of_one_window ((inWindow_iff _ _ _).2 ⟨hle, hlt⟩) hone
    simp [hostMove, hloc]
  · simp [hostMove, locate_of_no_window hnone]

/-! ### The bytes of a buffer access (O44) -/

theorem busBytes_32_getElem (v : Word) {j : Nat} (hj : j < 4) :
    (busBytes 32 v)[j] = v.extractLsb' (8 * j) 8 := by
  obtain rfl | rfl | rfl | rfl : j = 0 ∨ j = 1 ∨ j = 2 ∨ j = 3 := by omega
  all_goals rfl

/-- The four bytes of a word, put together again (R65). -/
theorem word_of_bytes (v : Word) :
    v.extractLsb' 24 8 ++ v.extractLsb' 16 8 ++ v.extractLsb' 8 8 ++ v.extractLsb' 0 8 = v := by
  rw [BitVec.extractLsb'_append_extractLsb'_eq_extractLsb' (by decide),
    BitVec.extractLsb'_append_extractLsb'_eq_extractLsb' (by decide),
    BitVec.extractLsb'_append_extractLsb'_eq_extractLsb' (by decide), BitVec.extractLsb'_eq_self]

theorem busBytes_8_zext32 (b : Byte) : busBytes 8 (zext32 b) = [b] := by
  have hlow : (zext32 b).extractLsb' 0 8 = b := by
    rw [zext32, BitVec.extractLsb'_setWidth_of_le (by decide), BitVec.extractLsb'_eq_self]
  rw [busBytes, if_pos rfl, hlow]

/-- A buffer that holds a word's bytes holds them little-endian (R65). -/
theorem byteAt_of_holds_busBytes_32 {m : Memory} {off : Nat} {v : Word}
    (h : holds m off (busBytes 32 v)) {j : Nat} (hj : j < 4) :
    m.byteAt (off + j) = some (v.extractLsb' (8 * j) 8) :=
  busBytes_32_getElem v hj ▸ h j hj

theorem holds_store (m : Memory) (off : Nat) (bs : List Byte) : holds (m.store off bs) off bs :=
  fun _ hj => byteAt_store_inside hj

/-- The buffer behind a space; REG has none (R60). -/
def State.buffer (s : State) : Space → Memory
  | .reg => []
  | .ibuf => s.ibuf
  | .obuf => s.obuf

section Buffers

variable {s : State} {sp : Space}

theorem State.readBuffer_32 {m : Memory} {off : Nat} {b0 b1 b2 b3 : Byte}
    (h : holds m off [b0, b1, b2, b3]) : s.readBuffer m off 32 = b3 ++ b2 ++ b1 ++ b0 := by
  have hbyte : ∀ j (hj : j < 4) d, m.readByte (off + j) d = [b0, b1, b2, b3][j] :=
    fun j hj d => Memory.readByte_written (h j hj) d
  have h0 := hbyte 0 (by decide)
  simp only [Nat.add_zero] at h0
  simp [State.readBuffer, busWord, h0, hbyte 1, hbyte 2, hbyte 3]

theorem State.readBuffer_8 {m : Memory} {off : Nat} {b : Byte} (h : m.byteAt off = some b) :
    s.readBuffer m off 8 = zext32 b := by
  simp [State.readBuffer, busWord, Memory.readByte_written h]

theorem State.hostRead_buffer (hb : s.busy = false) (hsp : sp ≠ .reg) (off w : Nat) :
    s.hostRead sp off w = s.readBuffer (s.buffer sp) off w := by
  cases sp with
  | reg => exact absurd rfl hsp
  | ibuf => rfl
  | obuf => simp [State.hostRead, State.obufSeen, hb, State.buffer]

theorem State.hostWrite_buffer (hsp : sp ≠ .reg) (off w : Nat) (v : Word) :
    (s.hostWrite sp off w v).buffer sp = (s.buffer sp).store off (busBytes w v) := by
  cases sp with
  | reg => exact absurd rfl hsp
  | ibuf => rfl
  | obuf => rfl

variable (hr : s.resetLine = false) (hb : s.busy = false) (hsp : sp ≠ .reg)
include hr hb hsp

theorem hostMove_read_8 {off : Nat} (hin : off < spaceSize s.params sp) {b : Byte}
    (h : (s.buffer sp).byteAt off = some b) :
    hostMove (.access (.read sp off 8)) s = .next (returned s (zext32 b)) := by
  rw [hostMove_readBuffer hr hsp (.inl rfl) hin, State.hostRead_buffer hb hsp, State.readBuffer_8 h]
  rfl

theorem hostMove_read_32 {off : Nat} (ha : off % 4 = 0) (hin : off + 4 ≤ spaceSize s.params sp)
    {b0 b1 b2 b3 : Byte} (h : holds (s.buffer sp) off [b0, b1, b2, b3]) :
    hostMove (.access (.read sp off 32)) s = .next (returned s (b3 ++ b2 ++ b1 ++ b0)) := by
  rw [hostMove_readBuffer hr hsp (.inr ⟨rfl, ha⟩) hin, State.hostRead_buffer hb hsp,
    State.readBuffer_32 h]
  rfl

/-- An 8-bit write of a byte. -/
theorem hostMove_write_8 {off : Nat} (hin : off < spaceSize s.params sp) (b : Byte) :
    hostMove (.access (.write sp off 8 (zext32 b))) s = .next (s.hostWrite sp off 8 (zext32 b)) ∧
    ((s.hostWrite sp off 8 (zext32 b)).buffer sp).byteAt off = some b ∧
    ∀ a, a ≠ off →
      ((s.hostWrite sp off 8 (zext32 b)).buffer sp).byteAt a = (s.buffer sp).byteAt a := by
  refine ⟨hostMove_writeBuffer hr hb hsp (.inl rfl) hin _, ?_, fun a ha => ?_⟩
  · rw [State.hostWrite_buffer hsp, busBytes_8_zext32]
    exact holds_store _ off [b] 0 Nat.zero_lt_one
  · rw [State.hostWrite_buffer hsp, busBytes_8_zext32, byteAt_store,
      if_neg (by rw [List.length_singleton]; omega)]

/-- A 32-bit write of a word. -/
theorem hostMove_write_32 {off : Nat} (ha : off % 4 = 0) (hin : off + 4 ≤ spaceSize s.params sp)
    (v : Word) :
    hostMove (.access (.write sp off 32 v)) s = .next (s.hostWrite sp off 32 v) ∧
    holds ((s.hostWrite sp off 32 v).buffer sp) off (busBytes 32 v) ∧
    ∀ a, a < off ∨ off + 4 ≤ a →
      ((s.hostWrite sp off 32 v).buffer sp).byteAt a = (s.buffer sp).byteAt a := by
  refine ⟨hostMove_writeBuffer hr hb hsp (.inr ⟨rfl, ha⟩) hin v, ?_, fun a h => ?_⟩
  · rw [State.hostWrite_buffer hsp]
    exact holds_store _ _ _
  · rw [State.hostWrite_buffer hsp, byteAt_store,
      if_neg (by rw [show (busBytes 32 v).length = 4 from rfl]; omega)]

/-- Reads of either width where the buffer holds the bytes of a word. -/
theorem hostMove_reads_of_word {off : Nat} (ha : off % 4 = 0)
    (hin : off + 4 ≤ spaceSize s.params sp) {v : Word}
    (h : holds (s.buffer sp) off (busBytes 32 v)) :
    hostMove (.access (.read sp off 32)) s = .next (returned s v) ∧
    ∀ j, j < 4 → hostMove (.access (.read sp (off + j) 8)) s
      = .next (returned s (zext32 (v.extractLsb' (8 * j) 8))) := by
  refine ⟨?_, fun j hj => ?_⟩
  · rw [hostMove_read_32 hr hb hsp ha hin h, word_of_bytes]
  · exact hostMove_read_8 hr hb hsp (by omega) (byteAt_of_holds_busBytes_32 h hj)

end Buffers

/-- Settles O44: each clause for IBUF and for OBUF is one lemma about the buffer of a space. -/
theorem bufferByteOrder : Obligations.BufferByteOrder := by
  intro s off v hr hb
  have hi : Space.ibuf ≠ .reg := by decide
  have ho : Space.obuf ≠ .reg := by decide
  refine ⟨fun ha hin => ?_, fun ha hin => ?_,
    fun _ _ _ _ ha hin h => hostMove_read_32 hr hb hi ha hin h,
    fun _ _ _ _ ha hin h => hostMove_read_32 hr hb ho ha hin h,
    fun _ hin h => hostMove_read_8 hr hb hi hin h, fun _ hin h => hostMove_read_8 hr hb ho hin h,
    fun b hin => ?_, fun b hin => ?_⟩
  · obtain ⟨hmove, hbytes, hframe⟩ := hostMove_write_32 hr hb hi ha hin v
    obtain ⟨hread, hread8⟩ :=
      hostMove_reads_of_word (s := s.hostWrite .ibuf off 32 v) hr hb hi ha hin hbytes
    exact ⟨_, hmove, rfl, fun _ => byteAt_of_holds_busBytes_32 hbytes, hframe, hread, hread8⟩
  · obtain ⟨hmove, hbytes, hframe⟩ := hostMove_write_32 hr hb ho ha hin v
    obtain ⟨hread, hread8⟩ :=
      hostMove_reads_of_word (s := s.hostWrite .obuf off 32 v) hr hb ho ha hin hbytes
    exact ⟨_, hmove, rfl, fun _ => byteAt_of_holds_busBytes_32 hbytes, hframe, hread, hread8⟩
  · obtain ⟨hmove, hbyte, hframe⟩ := hostMove_write_8 hr hb hi hin b
    exact ⟨_, hmove, rfl, hbyte, hframe⟩
  · obtain ⟨hmove, hbyte, hframe⟩ := hostMove_write_8 hr hb ho hin b
    exact ⟨_, hmove, rfl, hbyte, hframe⟩

/-! ### Side effects of an access (O45) -/

theorem hostAccess_eq_next_iff {a : Access} {s t : State} :
    hostAccess a s = .next t ↔ s.refuses a = none ∧ s.performs a = t := by
  unfold hostAccess
  cases s.refuses a <;> simp

/-- Whether an access is refused depends on the reset input, the parameters and BUSY alone. -/
theorem refuses_congr {s t : State} (hr : t.resetLine = s.resetLine) (hp : t.params = s.params)
    (hb : t.busy = s.busy) (a : Access) : t.refuses a = s.refuses a := by
  cases a <;> simp [State.refuses, State.refusesAt, hr, hp, hb]

section Repeat

variable (s : State)

/-- A register write but of CMD changes its own register alone (R64). -/
theorem State.writeReg_writesOnly {r : Reg} (hr : r ≠ .cmd) (w : Nat) (v : Word) :
    writesOnly .reg (regOffset r) w s (s.writeReg r v) := by
  cases r with
  | cmd => exact absurd rfl hr
  | _ =>
    simp [writesOnly, State.writeReg, regOffset, State.setCfg, State.setPageSize,
      State.setBlockSize]

theorem State.writeReg_writeReg {r : Reg} (hr : r ≠ .cmd) (v : Word) :
    (s.writeReg r v).writeReg r v = s.writeReg r v := by
  cases r with
  | cmd => exact absurd rfl hr
  | _ => rfl

theorem byteAt_store_busBytes (m : Memory) {sp : Space} (hsp : sp ≠ .reg) {off w : Nat}
    (hw : widthAllowed sp w = true) (v : Word) {a : Nat} (ha : ¬ (off ≤ a ∧ a < off + w / 8)) :
    (m.store off (busBytes w v)).byteAt a = m.byteAt a := by
  rw [byteAt_store, busBytes_length hsp hw, if_neg ha]

/-- A performed write that does not issue a command: what it may change, and that it may be repeated
(R69). -/
theorem State.hostWrite_writesOnly_and_idem {sp : Space} {off w : Nat} (hw : widthAllowed sp w = true)
    (hmapped : ¬ (sp = .reg ∧ regAt off = none)) (hcmd : ¬ (sp = .reg ∧ off = 0x0C)) (v : Word) :
    writesOnly sp off w s (s.hostWrite sp off w v) ∧
      (s.hostWrite sp off w v).hostWrite sp off w v = s.hostWrite sp off w v := by
  cases sp with
  | reg =>
    simp only [State.hostWrite]
    cases hreg : regAt off with
    | none => exact absurd ⟨rfl, hreg⟩ hmapped
    | some r =>
      obtain rfl := regOffset_of_regAt hreg
      have hr : r ≠ .cmd := fun h => hcmd ⟨rfl, by rw [h]; rfl⟩
      exact ⟨s.writeReg_writesOnly hr w v, s.writeReg_writeReg hr v⟩
  | ibuf =>
    refine ⟨⟨rfl, fun _ => rfl, fun _ => rfl, fun _ => rfl, fun a ha => ?_, fun _ _ => rfl⟩, ?_⟩
    · exact byteAt_store_busBytes _ (by decide) hw v fun h => ha ⟨rfl, h⟩
    · simp only [State.hostWrite, State.writeIbuf, Memory.store_store]
  | obuf =>
    refine ⟨⟨rfl, fun _ => rfl, fun _ => rfl, fun _ => rfl, fun _ _ => rfl, fun a ha => ?_⟩, ?_⟩
    · exact byteAt_store_busBytes _ (by decide) hw v fun h => ha ⟨rfl, h⟩
    · simp only [State.hostWrite, State.memWrite, Memory.store_store]

end Repeat

/-- Settles O45: what a performed access leaves does not make the same access refused, and
a repeated write stores the same again. -/
theorem onlyCmdWritesHaveSideEffects : Obligations.OnlyCmdWritesHaveSideEffects := by
  intro s t a h hcmd
  obtain ⟨hrefuses, rfl⟩ := hostAccess_eq_next_iff.1 h
  cases a with
  | read sp off w =>
    have hagain : (s.performs (.read sp off w)).refuses (.read sp off w) = none :=
      (refuses_congr (s := s) rfl rfl rfl _).trans hrefuses
    exact ⟨fun _ _ _ _ => rfl, fun _ _ _ _ ha => (nomatch ha), _,
      hostAccess_eq_next_iff.2 ⟨hagain, rfl⟩, rfl⟩
  | write sp off w v =>
    obtain ⟨hat, -⟩ := (refuses_write_eq_none_iff s sp off w v).1 hrefuses
    obtain ⟨-, hw, -, hmapped, -⟩ := refusesAt_none hat
    have hnot : ¬ (sp = .reg ∧ off = 0x0C) := by
      rintro ⟨rfl, rfl⟩
      obtain rfl : w = 32 := by simpa [widthAllowed] using hw
      exact hcmd trivial
    obtain ⟨hwrites, hstores⟩ := s.hostWrite_writesOnly_and_idem hw hmapped hnot v
    have ⟨hsame, _⟩ := hwrites
    have hagain : (s.hostWrite sp off w v).refuses (.write sp off w v) = none :=
      (refuses_congr (congrArg State.resetLine hsame) (congrArg State.params hsame)
        (congrArg State.busy hsame) _).trans hrefuses
    refine ⟨fun _ _ _ ha => (nomatch ha), fun _ _ _ _ ha => ?_, s.hostWrite sp off w v,
      hostAccess_eq_next_iff.2 ⟨hagain, hstores⟩, rfl⟩
    cases ha
    exact hwrites

/-! ### What the assembler lays out (O30) -/

theorem readFrom_readBytes (m : Memory) (off n d : Nat) :
    readFrom m off n (m.readBytes off n d) := by
  refine ⟨Memory.readBytes_length m off n d, fun j b hj hb => ?_⟩
  rw [List.getElem?_eq_getElem (by simpa using hj), Memory.readBytes_getElem,
    Memory.readByte_written hb]

theorem chunkParity_length (r : Rom) (p : Params) (ch : List Byte) {str : BitVec 4}
    (h : str = 3 ∨ str = 4) : (chunkParity r p ch str).length = str.toNat :=
  parityBytes_length _ h

theorem strengthOf_eq_some_iff (m : Mode) (str : BitVec 4) :
    strengthOf m = some str ↔ (m = .ecc4 ∧ str = 4) ∨ (m = .ecc3 ∧ str = 3) := by
  cases m <;> simp [strengthOf, eq_comm]

section LaidOut

variable {s u t : State} {l : Layout} {i : Nat}

/-- OBUF holds page `i` laid out when it agrees, on the page's part, with what assembling the page
leaves, from a state with the IBUF, ROMs and parameters of `s`. -/
theorem pageLaidOut_of_assemblePage (hu : CommandKeeps s u)
    (he : l.mode.isEcc = true → l.page % 128 = 0)
    (h : ∀ a, l.outAt i ≤ a → a < l.outAt (i + 1) →
      t.obuf.byteAt a = (u.assemblePage l i).obuf.byteAt a) : pageLaidOut s t l i := by
  have hnext := l.outAt_succ i
  have hpage : ∀ j, j < l.page → t.obuf.byteAt (l.outAt i + j)
      = some (s.ibuf.readByte (l.rawAt i + j) (u.draws + j)) := fun j hj => by
    rw [h _ (by omega) (by omega), u.assemblePage_raw l i he hj, hu.ibuf]
  have hoob : ∀ j, j < l.oob →
      t.obuf.byteAt (l.oobAt i + j) = (u.assemblePage l i).obuf.byteAt (l.oobAt i + j) :=
    fun j hj => h _ (by unfold Layout.oobAt; omega) (by unfold Layout.oobAt; omega)
  refine ⟨fun j hj => ⟨⟨_, hpage j hj⟩, fun b hb => ?_⟩, fun hm j hj => ?_, fun hm j hj => ?_,
    fun str hstr => ?_⟩
  · exact (hpage j hj).trans (congrArg some (Memory.readByte_written hb _))
  · exact (hoob j hj).trans (u.assemblePage_fill l i (.inl ⟨hm, rfl⟩) hj)
  · exact (hoob j hj).trans (u.assemblePage_fill l i (.inr ⟨hm, rfl⟩) hj)
  · have hmode := (strengthOf_eq_some_iff _ _).1 hstr
    have hs : str = 3 ∨ str = 4 := by rcases hmode with ⟨-, h⟩ | ⟨-, h⟩ <;> simp [h]
    have hecc : l.mode.isEcc = true := by rcases hmode with ⟨h, -⟩ | ⟨h, -⟩ <;> rw [h] <;> rfl
    obtain ⟨hfit, -⟩ := slots_fit (he hecc) hs
    obtain ⟨hslots, hfill⟩ := u.assemblePage_ecc l i hmode
    refine ⟨fun k hk => ?_, fun j hj hjo => (hoob j hjo).trans (hfill j hj hjo)⟩
    obtain ⟨d, hd⟩ := hslots k hk
    have hslot : str.toNat * k + str.toNat ≤ l.oob :=
      (Nat.mul_le_mul_left str.toNat hk : str.toNat * (k + 1) ≤ _).trans hfit
    refine ⟨_, readFrom_readBytes s.ibuf _ 128 d, fun j hj => ?_⟩
    have hlen := chunkParity_length s.rom s.params
      (s.ibuf.readBytes (i * l.page + 128 * k) 128 d) hs
    refine ⟨_, List.getElem?_eq_getElem (hlen.symm ▸ hj), ?_⟩
    have hbyte := hd j hj
    rw [Nat.add_assoc, ← hoob _ (by omega), ← Nat.add_assoc, hu.rom, hu.params, hu.ibuf] at hbyte
    exact hbyte.trans (List.getElem?_eq_getElem _)

/-- A page laid out has every byte of its part of OBUF written: the page, and its OOB in each mode. -/
theorem byteAt_of_pageLaidOut (h : pageLaidOut s t l i) {j : Nat}
    (hj : j < l.page + l.page / 32) :
    ∃ b, t.obuf.byteAt (i * (l.page + l.page / 32) + j) = some b := by
  obtain ⟨hpage, hzero, hones, hecc⟩ := h
  rcases Nat.lt_or_ge j l.page with hlt | hge
  · exact (hpage j hlt).1
  · obtain ⟨k, rfl⟩ := Nat.exists_eq_add_of_le hge
    rw [← Nat.add_assoc]
    have hk : k < l.page / 32 := by omega
    have slots : ∀ str, strengthOf l.mode = some str → 0 < str.toNat →
        ∃ b, t.obuf.byteAt (i * (l.page + l.page / 32) + l.page + k) = some b := by
      intro str hs hpos
      obtain ⟨hslots, hfill⟩ := hecc str hs
      rcases Nat.lt_or_ge k (str.toNat * (l.page / 128)) with hin | hout
      · obtain ⟨ch, -, hch⟩ := hslots (k / str.toNat) (Nat.div_lt_of_lt_mul hin)
        obtain ⟨b, -, hb⟩ := hch (k % str.toNat) (Nat.mod_lt _ hpos)
        rw [Nat.add_assoc _ (_ * _), Nat.div_add_mod] at hb
        exact ⟨b, hb⟩
      · exact ⟨_, hfill k hout hk⟩
    cases hm : l.mode with
    | zero => exact ⟨_, hzero hm k hk⟩
    | ones => exact ⟨_, hones hm k hk⟩
    | ecc4 => exact slots 4 (by rw [hm]; rfl) (by decide)
    | ecc3 => exact slots 3 (by rw [hm]; rfl) (by decide)

end LaidOut

/-- A command that stays in the assembler's frame and ends without an error. -/
theorem State.AsmFrame.onlyObufFrom {s t : State} (h : s.AsmFrame t) :
    onlyObufFrom s t.succeed := by
  unfold State.AsmFrame at h
  rw [h]
  rfl

/-- Settles O30: page after page is laid out, and the pages fill OBUF below OUT. -/
theorem asmBlockLaysOutTheBlock : Obligations.AsmBlockLaysOutTheBlock := by
  intro s l hl
  have hecc := (checkedLayout_of_ok hl).ecc_mult
  obtain ⟨habove, hpages⟩ := s.assemblePages_byteAt l hecc l.pages
  have hlaid : ∀ i, i < l.pages → pageLaidOut s (s.assemblePages l l.pages).succeed l i :=
    fun i hi => by
      obtain ⟨u, hu, h⟩ := hpages i hi
      exact pageLaidOut_of_assemblePage hu hecc h
  have hexec : exec .asmBlock s = .next (s.assemblePages l l.pages).succeed := by
    rw [exec_eq, outcome, hl]
    rfl
  refine ⟨_, hexec, (s.assemblePages_frame l _).onlyObufFrom, hlaid, fun a ha => ?_, habove⟩
  have hsize : 0 < l.page + l.page / 32 := Nat.pos_of_lt_mul_left ha
  have hi : a / (l.page + l.page / 32) < l.pages := Nat.div_lt_of_lt_mul (by rwa [Nat.mul_comm])
  rw [← Nat.div_add_mod' a (l.page + l.page / 32)]
  exact byteAt_of_pageLaidOut (hlaid _ hi) (Nat.mod_lt _ hsize)

/-! ### What the commands do from another OBUF (O35) -/

/-- The state with another OBUF. -/
def State.setObuf (s : State) (m : Memory) : State := { s with obuf := m }

/-- The stores that made `m` into `m'` made `n` into `n'`: each byte is the same afterwards, or was
stored to in neither. -/
def SameStores (m n m' n' : Memory) : Prop :=
  ∀ a, n'.byteAt a = m'.byteAt a ∨ (n'.byteAt a = n.byteAt a ∧ m'.byteAt a = m.byteAt a)

theorem SameStores.refl (m n : Memory) : SameStores m n m n := fun _ => .inr ⟨rfl, rfl⟩

theorem SameStores.trans {m n m' n' m'' n'' : Memory} (h : SameStores m n m' n')
    (h' : SameStores m' n' m'' n'') : SameStores m n m'' n'' := fun a => by
  obtain heq | ⟨hn, hm⟩ := h' a
  · exact .inl heq
  · rw [hn, hm]
    exact h a

theorem SameStores.store (m n : Memory) (off : Nat) (bs : List Byte) :
    SameStores m n (m.store off bs) (n.store off bs) := fun a => by
  rw [byteAt_store, byteAt_store]
  split
  · exact .inl rfl
  · exact .inr ⟨rfl, rfl⟩

/-- `f` reads nothing of OBUF: from another OBUF it makes the same stores and other changes. -/
def IgnoresObuf (f : State → State) : Prop :=
  ∀ s m, ∃ m', f (s.setObuf m) = (f s).setObuf m' ∧ SameStores s.obuf m (f s).obuf m'

theorem IgnoresObuf.comp {f g : State → State} (hg : IgnoresObuf g) (hf : IgnoresObuf f) :
    IgnoresObuf (fun s => g (f s)) := fun s m => by
  obtain ⟨m', hf', hsame⟩ := hf s m
  obtain ⟨m'', hg', hsame'⟩ := hg (f s) m'
  exact ⟨m'', by rw [← hg', ← hf'], hsame.trans hsame'⟩

theorem ignoresObuf_copyPage (l : Layout) (i : Nat) : IgnoresObuf (·.copyPage l i) :=
  fun _ _ => ⟨_, rfl, .store _ _ _ _⟩

theorem ignoresObuf_fillOob (l : Layout) (i : Nat) (b : Byte) : IgnoresObuf (·.fillOob l i b) :=
  fun _ _ => ⟨_, rfl, .store _ _ _ _⟩

theorem ignoresObuf_eccSlot (l : Layout) (i : Nat) (str : BitVec 4) (k : Nat) :
    IgnoresObuf (·.eccSlot l i str k) :=
  fun s m => ⟨_, s.eccSlot_withObuf m l i str k, .store _ _ _ _⟩

theorem ignoresObuf_eccSlots (l : Layout) (i : Nat) (str : BitVec 4) (n : Nat) :
    IgnoresObuf (·.eccSlots l i str n) := by
  induction n with
  | zero => exact fun s m => ⟨m, rfl, .refl _ _⟩
  | succ n ih => exact (ignoresObuf_eccSlot l i str n).comp ih

theorem ignoresObuf_oobFor (l : Layout) (i : Nat) : IgnoresObuf (·.oobFor l i) := by
  unfold State.oobFor
  cases l.mode with
  | zero => exact ignoresObuf_fillOob l i _
  | ones => exact ignoresObuf_fillOob l i _
  | ecc4 => exact (ignoresObuf_eccSlots l i _ _).comp (ignoresObuf_fillOob l i _)
  | ecc3 => exact (ignoresObuf_eccSlots l i _ _).comp (ignoresObuf_fillOob l i _)

theorem ignoresObuf_assemblePage (l : Layout) (i : Nat) : IgnoresObuf (·.assemblePage l i) :=
  (ignoresObuf_oobFor l i).comp (ignoresObuf_copyPage l i)

theorem ignoresObuf_assemblePages (l : Layout) (n : Nat) : IgnoresObuf (·.assemblePages l n) := by
  induction n with
  | zero => exact fun s m => ⟨m, rfl, .refl _ _⟩
  | succ n ih => exact (ignoresObuf_assemblePage l n).comp ih

theorem State.pgChunk_setObuf (s : State) (m : Memory) (off : Nat) :
    (s.setObuf m).pgChunk off = (s.pgChunk off).setObuf m := by
  simp only [State.pgChunk, State.memRead, State.drew, State.setPg, State.setResult, State.setObuf]

/-- A command but an assembler one carries another OBUF along. -/
theorem outcome_setObuf {i : Instr} (hpage : ∀ k, i ≠ .asmPage k) (hblock : i ≠ .asmBlock)
    (s : State) (m : Memory) : outcome i (s.setObuf m) = (outcome i s).map (·.setObuf m) := by
  cases i with
  | nop | gfAdd | gfMul | gfLog | gfAlog => rfl
  | pgClr | pgByte | pgPar =>
    simp only [outcome, apply_ite (Except.map _)]
    rfl
  | pgChunk k =>
    simp only [outcome, apply_ite (Except.map _), State.pgChunk_setObuf]
    rfl
  | asmPage k => exact absurd rfl (hpage k)
  | asmBlock => exact absurd rfl hblock

theorem ignoresObuf_complete_of_not_asm {i : Instr} (hpage : ∀ k, i ≠ .asmPage k)
    (hblock : i ≠ .asmBlock) : IgnoresObuf (fun s => s.complete (outcome i s)) := fun s m => by
  have hobuf := ((exec_leavesUnwritten (exec_eq i s)).asmAcc_obuf hpage hblock).2
  refine ⟨m, ?_, ?_⟩
  · simp only [outcome_setObuf hpage hblock]
    cases outcome i s <;> rfl
  · simp only [hobuf]
    exact .refl _ _

theorem ignoresObuf_succeed : IgnoresObuf State.succeed := fun _ m => ⟨m, rfl, .refl _ _⟩

theorem ignoresObuf_raise (c : ErrCode) : IgnoresObuf (·.raise c) := fun _ m => ⟨m, rfl, .refl _ _⟩

/-- No command reads OBUF, in the check of the configuration or after it (R76). -/
theorem ignoresObuf_complete (i : Instr) : IgnoresObuf (fun s => s.complete (outcome i s)) := by
  cases i with
  | asmPage k =>
    intro s m
    have hcheck : checkCfg (s.setObuf m) = checkCfg s := rfl
    simp only [outcome, hcheck]
    cases checkCfg s with
    | error c => exact ignoresObuf_raise c s m
    | ok l =>
      by_cases hk : l.pages ≤ pageIndex k
      · simp only [if_pos hk]
        exact ignoresObuf_raise .range s m
      · simp only [if_neg hk]
        exact ignoresObuf_succeed.comp (ignoresObuf_assemblePage l (pageIndex k)) s m
  | asmBlock =>
    intro s m
    have hcheck : checkCfg (s.setObuf m) = checkCfg s := rfl
    simp only [outcome, hcheck]
    cases checkCfg s with
    | error c => exact ignoresObuf_raise c s m
    | ok l => exact ignoresObuf_succeed.comp (ignoresObuf_assemblePages l l.pages) s m
  | _ => exact ignoresObuf_complete_of_not_asm (by simp) (by simp)

/-- Settles O35: a command is its completion, which ignores OBUF. -/
theorem engineNeverReadsObuf : Obligations.EngineNeverReadsObuf := by
  intro i s t m h
  rw [exec_eq] at h
  cases h
  obtain ⟨m', heq, hsame⟩ := ignoresObuf_complete i s m
  exact ⟨m', (exec_eq i (s.setObuf m)).trans (congrArg _ heq), hsame⟩

end Sys2Proof.Machine

/-! ### The decoder and the encoder (30_encoding.md R81 to R85)

A word is the encoding of a command exactly when its fields are that command's: its opcode, 0 in every
"must be 0" bit, and its operands. The decoder reads exactly these fields. -/

namespace Sys2Proof

open Claims

/-! #### Each format as its fields (R81) -/

theorem append_eq_iff {n m : Nat} {x : BitVec n} {y : BitVec m} {w : BitVec (n + m)} :
    x ++ y = w ↔ w.extractLsb' m n = x ∧ w.extractLsb' 0 m = y := by
  constructor
  · rintro rfl
    exact ⟨BitVec.extractLsb'_append_eq_left, BitVec.extractLsb'_append_eq_right⟩
  · rintro ⟨rfl, rfl⟩
    exact BitVec.extractLsb'_append_extractLsb'

theorem extractLsb'_eq_append_iff {n m k i : Nat} {x : BitVec n} {y : BitVec m} {w : BitVec k} :
    w.extractLsb' i (n + m) = x ++ y ↔ w.extractLsb' (i + m) n = x ∧ w.extractLsb' i m = y := by
  rw [← BitVec.extractLsb'_append_extractLsb'_eq_extractLsb' rfl, append_eq_iff,
    BitVec.extractLsb'_append_eq_left, BitVec.extractLsb'_append_eq_right, eq_comm, @eq_comm _ y]

section Formats

variable {op a b : BitVec 8} {s : BitVec 4} {k : BitVec 24} {w : Word}

theorem formatN_eq_iff : formatN op = w ↔ opcode w = op ∧ w.extractLsb' 0 24 = 0#24 :=
  append_eq_iff

theorem formatX_eq_iff : formatX op k = w ↔ opcode w = op ∧ w.extractLsb' 0 24 = k :=
  append_eq_iff

theorem formatU_eq_iff : formatU op a = w ↔
    opcode w = op ∧ w.extractLsb' 8 16 = 0#16 ∧ w.extractLsb' 0 8 = a := by
  rw [formatU, append_eq_iff, extractLsb'_eq_append_iff, and_assoc]
  rfl

theorem formatS_eq_iff : formatS op s = w ↔
    opcode w = op ∧ w.extractLsb' 4 20 = 0#20 ∧ w.extractLsb' 0 4 = s := by
  rw [formatS, append_eq_iff, extractLsb'_eq_append_iff, and_assoc]
  rfl

theorem formatR_eq_iff : formatR op a b = w ↔
    opcode w = op ∧ w.extractLsb' 16 8 = 0#8 ∧ w.extractLsb' 8 8 = a ∧ w.extractLsb' 0 8 = b := by
  rw [formatR, append_eq_iff, extractLsb'_eq_append_iff, extractLsb'_eq_append_iff, and_assoc,
    and_assoc]
  rfl

end Formats

/-! #### Decoding what was encoded (R83, R84) -/

theorem encodedRow (i : Instr) : Laws.EncodedRow.Statement i := by
  cases i with
  | nop => exact Laws.EncodedRow.nop
  | gfAdd a b => exact Laws.EncodedRow.gfAdd a b
  | gfMul a b => exact Laws.EncodedRow.gfMul a b
  | gfLog a => exact Laws.EncodedRow.gfLog a
  | gfAlog a => exact Laws.EncodedRow.gfAlog a
  | pgClr s => exact Laws.EncodedRow.pgClr s
  | pgByte d => exact Laws.EncodedRow.pgByte d
  | pgPar => exact Laws.EncodedRow.pgPar
  | pgChunk k => exact Laws.EncodedRow.pgChunk k
  | asmPage k => exact Laws.EncodedRow.asmPage k
  | asmBlock => exact Laws.EncodedRow.asmBlock

/-- Every command has a row in the opcode map. -/
theorem exists_row (op : Op) : ∃ r ∈ rows, r.op = op := by cases op <;> decide

/-- The operand fields of an encoded word hold the command's operands (R82). -/
theorem operands_encode (i : Instr) : operands (Laws.opOf i) (encode i) = i := by
  cases i with
  | nop | pgPar | asmBlock => rfl
  | gfAdd a b | gfMul a b => simp only [Laws.opOf, operands, encode, formatR_eq_iff.1 rfl]
  | gfLog a | gfAlog a | pgByte a => simp only [Laws.opOf, operands, encode, formatU_eq_iff.1 rfl]
  | pgClr s => simp only [Laws.opOf, operands, encode, formatS_eq_iff.1 rfl]
  | pgChunk k | asmPage k => simp only [Laws.opOf, operands, encode, formatX_eq_iff.1 rfl]

/-- Settles O2: a command's own row selects its word, and the operand fields give its operands. -/
theorem decodeAfterEncode : Obligations.DecodeAfterEncode := by
  intro i
  obtain ⟨r, hr, hop⟩ := exists_row (Laws.opOf i)
  have hsel : r.selects (encode i) = true := (encodedRow i r hr).2 hop
  rw [decode_of_selects hr hsel, hop, operands_encode]

/-! #### Encoding what was decoded (R83, R85) -/

/-- A word that a row selects agrees with the row in every field that the row's mask covers. -/
theorem field_of_selects {r : Row} {w : Word} (h : r.selects w = true) {i n : Nat}
    (hmask : r.mask.extractLsb' i n = BitVec.allOnes n) :
    w.extractLsb' i n = r.value.extractLsb' i n := by
  have hw : w &&& r.mask = r.value := by simpa [Row.selects] using h
  rw [← hw, BitVec.extractLsb'_and, hmask, BitVec.and_allOnes]

/-- A word that the decoder accepts is selected by a row, and read by it. -/
theorem selects_of_decode_ok {w : Word} {i : Instr} (h : decode w = .ok i) :
    ∃ r ∈ rows, r.selects w = true ∧ operands r.op w = i := by
  by_cases hsel : ∃ r ∈ rows, r.selects w = true
  · obtain ⟨r, hr, hs⟩ := hsel
    exact ⟨r, hr, hs, Except.ok.inj ((decode_of_selects hr hs).symm.trans h)⟩
  · have hnone : ∀ r ∈ rows, r.selects w = false := by simpa using hsel
    obtain ⟨e, he⟩ := decode_of_not_selects hnone
    cases he.symm.trans h

/-- A word that a row selects holds nothing but the row's opcode and operands: each of its other bits
is a "must be 0" bit that the mask covers. -/
theorem encode_operands_of_selects {r : Row} {w : Word} (hr : r ∈ rows) (h : r.selects w = true) :
    encode (operands r.op w) = w := by
  have hop : opcode w = r.value.extractLsb' 24 8 := opcode_of_selects hr h
  simp only [rows, List.mem_cons, List.not_mem_nil, or_false] at hr
  rcases hr with rfl | rfl | rfl | rfl | rfl | rfl | rfl | rfl | rfl | rfl | rfl
  · exact formatN_eq_iff.2 ⟨hop, field_of_selects h rfl⟩
  · exact formatR_eq_iff.2 ⟨hop, field_of_selects h rfl, rfl, rfl⟩
  · exact formatR_eq_iff.2 ⟨hop, field_of_selects h rfl, rfl, rfl⟩
  · exact formatU_eq_iff.2 ⟨hop, field_of_selects h rfl, rfl⟩
  · exact formatU_eq_iff.2 ⟨hop, field_of_selects h rfl, rfl⟩
  · exact formatS_eq_iff.2 ⟨hop, field_of_selects h rfl, rfl⟩
  · exact formatU_eq_iff.2 ⟨hop, field_of_selects h rfl, rfl⟩
  · exact formatN_eq_iff.2 ⟨hop, field_of_selects h rfl⟩
  · exact formatX_eq_iff.2 ⟨hop, rfl⟩
  · exact formatX_eq_iff.2 ⟨hop, rfl⟩
  · exact formatN_eq_iff.2 ⟨hop, field_of_selects h rfl⟩

/-- Settles O3: the row that selects the word fixes every bit that is no operand. -/
theorem encodeAfterDecode : Obligations.EncodeAfterDecode := by
  intro w i h
  obtain ⟨r, hr, hsel, rfl⟩ := selects_of_decode_ok h
  exact encode_operands_of_selects hr hsel

/-- The decoder accepts exactly the encoded words (R84, R85). -/
theorem decode_eq_ok_iff {w : Word} {i : Instr} : decode w = .ok i ↔ encode i = w :=
  ⟨encodeAfterDecode w i, fun h => h ▸ decodeAfterEncode i⟩

/-- Settles O4: such a word is its format with these fields, and that is an encoded word. -/
theorem decodeIsTheOpcodeMap : Obligations.DecodeIsTheOpcodeMap := by
  intro w
  simp only [decode_eq_ok_iff, encode]
  refine ⟨fun h h0 => formatN_eq_iff.2 ⟨h, h0⟩, fun h h0 => formatR_eq_iff.2 ⟨h, h0, rfl, rfl⟩,
    fun h h0 => formatR_eq_iff.2 ⟨h, h0, rfl, rfl⟩, fun h h0 => formatU_eq_iff.2 ⟨h, h0, rfl⟩,
    fun h h0 => formatU_eq_iff.2 ⟨h, h0, rfl⟩, fun h h0 => formatS_eq_iff.2 ⟨h, h0, rfl⟩,
    fun h h0 => formatU_eq_iff.2 ⟨h, h0, rfl⟩, fun h h0 => formatN_eq_iff.2 ⟨h, h0⟩,
    fun h => formatX_eq_iff.2 ⟨h, rfl⟩, fun h => formatX_eq_iff.2 ⟨h, rfl⟩,
    fun h h0 => formatN_eq_iff.2 ⟨h, h0⟩⟩

/-- Settles O1: each word is one evaluation of the decoder. -/
theorem decodeOfWordsFromTheSpec : Obligations.DecodeOfWordsFromTheSpec := by
  unfold Obligations.DecodeOfWordsFromTheSpec
  decide

/-! #### The illegal words (R85) -/

theorem isIllegal_iff {w : Word} : isIllegal w ↔ ∀ i, encode i ≠ w := by
  simp only [ne_eq, ← decode_eq_ok_iff, isIllegal]
  cases decode w <;> simp

/-- The fields of the words that encode a command: an opcode of the map, and 0 in the "must be 0" bits
of its format (R81, R83). -/
def HasLegalFields (w : Word) : Prop :=
  ((opcode w = 0x00 ∨ opcode w = 0x12 ∨ opcode w = 0x21) ∧ w.extractLsb' 0 24 = 0#24) ∨
  ((opcode w = 0x01 ∨ opcode w = 0x02) ∧ w.extractLsb' 16 8 = 0#8) ∨
  ((opcode w = 0x03 ∨ opcode w = 0x04 ∨ opcode w = 0x11) ∧ w.extractLsb' 8 16 = 0#16) ∨
  (opcode w = 0x10 ∧ w.extractLsb' 4 20 = 0#20) ∨ opcode w = 0x13 ∨ opcode w = 0x20

theorem hasLegalFields_encode (i : Instr) : HasLegalFields (encode i) := by
  cases i with
  | nop | pgPar | asmBlock => simp [HasLegalFields, encode, formatN_eq_iff.1 rfl]
  | gfAdd a b | gfMul a b => simp [HasLegalFields, encode, formatR_eq_iff.1 rfl]
  | gfLog a | gfAlog a | pgByte a => simp [HasLegalFields, encode, formatU_eq_iff.1 rfl]
  | pgClr s => simp [HasLegalFields, encode, formatS_eq_iff.1 rfl]
  | pgChunk k | asmPage k => simp [HasLegalFields, encode, formatX_eq_iff.1 rfl]

theorem exists_encode_eq_iff {w : Word} : (∃ i, encode i = w) ↔ HasLegalFields w := by
  constructor
  · rintro ⟨i, rfl⟩
    exact hasLegalFields_encode i
  · rintro (⟨h | h | h, h0⟩ | ⟨h | h, h0⟩ | ⟨h | h | h, h0⟩ | ⟨h, h0⟩ | h | h)
    · exact ⟨.nop, formatN_eq_iff.2 ⟨h, h0⟩⟩
    · exact ⟨.pgPar, formatN_eq_iff.2 ⟨h, h0⟩⟩
    · exact ⟨.asmBlock, formatN_eq_iff.2 ⟨h, h0⟩⟩
    · exact ⟨.gfAdd _ _, formatR_eq_iff.2 ⟨h, h0, rfl, rfl⟩⟩
    · exact ⟨.gfMul _ _, formatR_eq_iff.2 ⟨h, h0, rfl, rfl⟩⟩
    · exact ⟨.gfLog _, formatU_eq_iff.2 ⟨h, h0, rfl⟩⟩
    · exact ⟨.gfAlog _, formatU_eq_iff.2 ⟨h, h0, rfl⟩⟩
    · exact ⟨.pgByte _, formatU_eq_iff.2 ⟨h, h0, rfl⟩⟩
    · exact ⟨.pgClr _, formatS_eq_iff.2 ⟨h, h0, rfl⟩⟩
    · exact ⟨.pgChunk _, formatX_eq_iff.2 ⟨h, rfl⟩⟩
    · exact ⟨.asmPage _, formatX_eq_iff.2 ⟨h, rfl⟩⟩

theorem isIllegal_iff_not_hasLegalFields {w : Word} : isIllegal w ↔ ¬ HasLegalFields w := by
  rw [isIllegal_iff, ← exists_encode_eq_iff, not_exists]

end Sys2Proof

namespace Sys2Proof.Machine

open Claims

/-! ### Which agent moves (00_scope.md R5; 70_reset_and_hazards.md R240) -/

section Agent

variable {s : State} {w : Word}

theorem step_eq_engineStep (hr : s.resetLine = false) (hp : s.pending = some w) (hd : s.delay = 0) :
    step s = engineStep w s := by
  simp [step, nextStep, hr, hp, hd]

theorem step_eq_hostStep_setDelay (hr : s.resetLine = false) (hp : s.pending = some w) {n : Nat}
    (hd : s.delay = n + 1) : step s = hostStep (s.setDelay n) := by
  simp [step, nextStep, hr, hp, hd]

theorem step_eq_hostStep (hp : s.pending = none) : step s = hostStep s := by
  simp [step, nextStep, hp]

theorem engineStep_of_isIllegal (hw : isIllegal w) : engineStep w s = .next (s.raise .illegalCmd) := by
  obtain ⟨e, he⟩ := hw
  rw [engineStep, he]
  rfl

theorem engineStep_encode (i : Instr) : engineStep (encode i) s = exec i s := by
  rw [engineStep, decodeAfterEncode]

/-- The ENGINE's step ends the command, legal or not, and keeps what no command writes (R182). -/
theorem engineStep_ends (w : Word) (s : State) :
    ∃ t, engineStep w s = .next t ∧ CommandKeeps s t ∧ t.pending = none ∧ t.busy = false := by
  cases hd : decode w with
  | error e =>
    exact ⟨_, engineStep_of_isIllegal ⟨e, hd⟩, ⟨rfl, rfl, rfl, rfl, rfl, rfl, rfl, rfl, rfl, rfl⟩,
      rfl, rfl⟩
  | ok i =>
    have hrun : engineStep w s = .next (s.complete (outcome i s)) := by
      rw [engineStep, hd]
      exact exec_eq i s
    refine ⟨_, hrun, exec_keeps (exec_eq i s), ?_⟩
    cases outcome i s <;> exact ⟨rfl, rfl⟩

end Agent

/-- Settles O5: the illegal words are those without a command's fields, and the ENGINE's step raises
ILLEGAL_CMD. -/
theorem illegalWordsChangeOnlyStatus : Obligations.IllegalWordsChangeOnlyStatus := by
  refine ⟨fun w => ?_, fun s w hw hp hd hr => ?_⟩
  · rw [isIllegal_iff_not_hasLegalFields, HasLegalFields]
    simp only [ne_eq, ← BitVec.toNat_inj, BitVec.reduceToNat]
    omega
  · rw [step_eq_engineStep hr hp hd, engineStep_of_isIllegal hw]
    rfl

/-! ### What a command does not look at (R182)

A command neither reads nor writes the status part, the countdown and the HOST's lists before its
completion: they may be those of another state. -/

/-- The state with the status part, the countdown and the HOST's lists of `c`. -/
def State.withControlOf (s c : State) : State :=
  { s with
    pending := c.pending, busy := c.busy, err := c.err, errcode := c.errcode, delay := c.delay,
    hostTodo := c.hostTodo, hostGot := c.hostGot }

/-- `f` neither reads nor writes the status part, the countdown and the HOST's lists. -/
def IgnoresControl (f : State → State) : Prop := ∀ c, Function.Commute f (·.withControlOf c)

theorem IgnoresControl.comp {f g : State → State} (hg : IgnoresControl g) (hf : IgnoresControl f) :
    IgnoresControl (fun s => g (f s)) := fun c => (hg c).comp_left (hf c)

section Control

variable (l : Layout)

theorem ignoresControl_copyPage (i : Nat) : IgnoresControl (·.copyPage l i) := fun _ _ => rfl

theorem ignoresControl_fillOob (i : Nat) (b : Byte) : IgnoresControl (·.fillOob l i b) :=
  fun _ _ => rfl

theorem ignoresControl_pgChunk (off : Nat) : IgnoresControl (·.pgChunk off) := fun _ _ => by
  simp only [State.pgChunk, State.memRead, State.drew, State.setPg, State.setResult,
    State.withControlOf]

theorem ignoresControl_eccSlot (i : Nat) (str : BitVec 4) (k : Nat) :
    IgnoresControl (·.eccSlot l i str k) := fun _ _ => by
  simp only [State.eccSlot, State.memRead, State.drew, State.setAsmAcc, State.memWrite,
    State.withControlOf]

theorem ignoresControl_eccSlots (i : Nat) (str : BitVec 4) (n : Nat) :
    IgnoresControl (·.eccSlots l i str n) := by
  induction n with
  | zero => exact fun _ _ => rfl
  | succ n ih => exact (ignoresControl_eccSlot l i str n).comp ih

theorem ignoresControl_oobFor (i : Nat) : IgnoresControl (·.oobFor l i) := by
  unfold State.oobFor
  cases l.mode with
  | zero | ones => exact ignoresControl_fillOob l i _
  | ecc4 | ecc3 => exact (ignoresControl_eccSlots l i _ _).comp (ignoresControl_fillOob l i _)

theorem ignoresControl_assemblePage (i : Nat) : IgnoresControl (·.assemblePage l i) :=
  (ignoresControl_oobFor l i).comp (ignoresControl_copyPage l i)

theorem ignoresControl_assemblePages (n : Nat) : IgnoresControl (·.assemblePages l n) := by
  induction n with
  | zero => exact fun _ _ => rfl
  | succ n ih => exact (ignoresControl_assemblePage l n).comp ih

end Control

theorem outcome_withControlOf (c : State) (i : Instr) (s : State) :
    outcome i (s.withControlOf c) = (outcome i s).map (·.withControlOf c) := by
  have hcheck : checkCfg (s.withControlOf c) = checkCfg s := rfl
  cases i with
  | nop | gfAdd | gfMul | gfLog | gfAlog => rfl
  | pgClr | pgByte | pgPar =>
    simp only [outcome, apply_ite (Except.map _)]
    rfl
  | pgChunk k =>
    simp only [outcome, apply_ite (Except.map _), ignoresControl_pgChunk _ c s]
    rfl
  | asmPage k =>
    simp only [outcome, hcheck]
    cases checkCfg s with
    | error e => rfl
    | ok l =>
      simp only [apply_ite (Except.map _), ignoresControl_assemblePage l _ c s]
      rfl
  | asmBlock =>
    simp only [outcome, hcheck]
    cases checkCfg s with
    | error e => rfl
    | ok l => exact congrArg Except.ok (ignoresControl_assemblePages l _ c s)

/-- The completion sets the status part, so the block is the same whatever it was before. -/
theorem sameBlock_complete {s t : State} (h : t = s.withControlOf t) (i : Instr) :
    sameBlock (s.complete (outcome i s)) (t.complete (outcome i t)) := by
  rw [h, outcome_withControlOf]
  cases outcome i s <;> rfl

/-! ### WAIT and ISSUE (30_encoding.md R89) -/

theorem run_succ_of_step {s t : State} (h : step s = .next t) (n : Nat) :
    core.run (n + 1) s = core.run n t := by
  simp only [Host.Core.run, show core.step s = .next t from h]

@[simp] theorem State.setTodo_status (s : State) (ms : List HostMove) :
    (s.setTodo ms).status = s.status := rfl

section Wait

variable {s : State} {rest : List HostMove}

theorem hostStep_wait_busy (hr : s.resetLine = false) (hb : s.busy = true)
    (ht : s.hostTodo = .wait :: rest) : hostStep s = .next (s.deliver s.status) := by
  have hself : (s.setTodo rest).setTodo (.wait :: rest) = s := by rw [← ht]; rfl
  rw [hostStep, ht]
  exact (hostWait_eq (s := s.setTodo rest) hr).trans (by simp [hb, hself])

theorem hostStep_wait_idle (hr : s.resetLine = false) (hb : s.busy = false)
    (ht : s.hostTodo = .wait :: rest) : hostStep s = .next ((s.setTodo rest).deliver s.status) := by
  rw [hostStep, ht]
  exact (hostWait_eq (s := s.setTodo rest) hr).trans (by simp [hb])

/-- `s` when the countdown has run out: with other free values used and other values returned. -/
def State.countedDown (s : State) (draws : Nat) (got : List Word) : State :=
  { s with delay := 0, draws := draws, hostGot := got }

/-- WAIT on a pending command (R89, R241): polls that change nothing in the block, the ENGINE's step,
and one last poll. -/
theorem run_wait {w : Word} (hr : s.resetLine = false) (hb : s.busy = true)
    (hp : s.pending = some w) (ht : s.hostTodo = .wait :: rest) :
    ∃ draws got u, engineStep w (s.countedDown draws got) = .next u ∧
      core.run (s.delay + 2) s = .next ((u.setTodo rest).deliver u.status) := by
  induction hd : s.delay generalizing s with
  | zero =>
    have hself : s.countedDown s.draws s.hostGot = s := by rw [State.countedDown, ← hd]
    obtain ⟨u, hu, hkeeps, hpending, hbusy⟩ := engineStep_ends w s
    refine ⟨s.draws, s.hostGot, u, hself.symm ▸ hu, ?_⟩
    have hlast := hostStep_wait_idle (hkeeps.resetLine.trans hr) hbusy (hkeeps.hostTodo.trans ht)
    rw [run_succ_of_step ((step_eq_engineStep hr hp hd).trans hu),
      run_succ_of_step ((step_eq_hostStep hpending).trans hlast)]
    rfl
  | succ n ih =>
    have hpoll := hostStep_wait_busy (s := s.setDelay n) hr hb ht
    rw [run_succ_of_step ((step_eq_hostStep_setDelay hr hp hd).trans hpoll)]
    exact ih (s := (s.setDelay n).deliver _) hr hb hp ht rfl

end Wait

theorem sameBlock_setTodo_deliver {s t : State} (h : sameBlock s t) (ms : List HostMove) (v : Word) :
    sameBlock s ((t.setTodo ms).deliver v) :=
  congrArg (fun t : State => (t.setTodo ms).deliver v) h

/-- Settles O53: the write of CMD latches the word, and WAIT lasts until the ENGINE has run it. -/
theorem issueRunsTheCommand : Obligations.IssueRunsTheCommand := by
  intro s i rest hr hb hp ht
  have hissue : step s = .next ((s.setTodo (.wait :: rest)).latch (encode i)) := by
    rw [step_eq_hostStep hp, hostStep, ht]
    exact (hostMove_wr (s := s.setTodo (.wait :: rest)) hr .cmd (encode i)).trans
      (by simp [hb, State.writeReg])
  obtain ⟨draws, got, u, hu, hrun⟩ :=
    run_wait (s := (s.setTodo (.wait :: rest)).latch (encode i)) hr rfl rfl rfl
  rw [← run_succ_of_step hissue] at hrun
  rw [engineStep_encode, exec_eq] at hu
  cases hu
  have hblock := sameBlock_complete (s := { s with draws := draws })
    (t := ((s.setTodo (.wait :: rest)).latch (encode i)).countedDown draws got) rfl i
  exact ⟨_, _, draws, _, hrun, rfl, exec_eq i _, sameBlock_setTodo_deliver hblock _ _⟩

end Sys2Proof.Machine

/-! ### The Galois Field Engine (40_gf_engine.md) -/

namespace Sys2Proof.Machine

open Claims

/-! #### The field laws (R106) -/

/-- Exponents that add up to the order of the generator give 1. -/
theorem fieldMul_fieldPow_sub (p : BitVec 9) {g : Byte} (hg : hasOrder255 p g = true) {n : Nat}
    (hn : n ≤ 255) : fieldMul p (fieldPow p g n) (fieldPow p g (255 - n)) = 1 := by
  rw [← fieldPow_add, Nat.add_sub_cancel' hn, ((hasOrder255_iff p g).1 hg).1]

/-- ALOG at the negated LOG is the inverse: LOG gives the exponent. -/
theorem fieldMul_alogAt_neg_logAt {p : Params} (h : Params.wf p = true) {a : Byte} (ha : a ≠ 0) :
    fieldMul p.gfPoly a
      (alogAt (romOf p) (BitVec.ofNat 8 ((255 - (logAt (romOf p) a).toNat) % 255))) = 1 := by
  obtain ⟨hle, halog⟩ := logAt_spec h ha
  have hpow : fieldPow p.gfPoly p.gfGen (logAt (romOf p) a).toNat = a :=
    (alogAt_eq_fieldPow h _).symm.trans halog
  have hinv := fieldMul_fieldPow_sub p.gfPoly (hasOrder255_gfGen h) (hle.trans (by decide))
  rwa [hpow, ← alogAt_ofNat_mod h] at hinv

/-- Settles O17: `gf_mul` is the field product, which has these laws for every GF_POLY; only the
inverse needs the order of the generator. -/
theorem fieldLaws : Obligations.FieldLaws := by
  intro s hs
  simp only [hs.gfMul_eq, gfAdd]
  refine ⟨fun a => ⟨fieldMul_zero_right _ a, fieldMul_zero_left _ a⟩, fieldMul_one_right _,
    fieldMul_comm _, fun a => ⟨BitVec.xor_self, BitVec.xor_zero⟩,
    fun a b c => ⟨BitVec.xor_comm a b, BitVec.xor_assoc a b c⟩,
    fun a b c => ⟨fieldMul_assoc _ a b c, fieldMul_xor_right _ a b c⟩, fun a ha => ?_⟩
  rw [hs.rom_eq]
  exact fieldMul_alogAt_neg_logAt hs.params_wf ha

/-! #### The four commands (R102 to R105) -/

/-- A command that only writes RESULT. -/
theorem exec_eq_done_of_outcome_setResult {i : Instr} {s : State} {v : Word}
    (h : outcome i s = .ok (s.setResult v)) : exec i s = .next (done { s with result := v }) := by
  rw [exec_eq, h]
  rfl

theorem gfMul_of_ne_zero (r : Rom) {a b : Byte} (ha : a ≠ 0) (hb : b ≠ 0) :
    gfMul r a b = alogAt r (BitVec.ofNat 8 (((logAt r a).toNat + (logAt r b).toNat) % 255)) :=
  if_neg (not_or.2 ⟨ha, hb⟩)

theorem exec_gfMul (a b : Byte) (s : State) :
    exec (.gfMul a b) s = .next (done { s with result := zext32 (gfMul s.rom a b) }) :=
  exec_eq_done_of_outcome_setResult rfl

/-- GF_ADD and GF_MUL have w[23:16] = 0 (R85). -/
theorem isIllegal_of_formatR {w : Word} (hop : opcode w = 0x01 ∨ opcode w = 0x02)
    (h : w.extractLsb' 16 8 ≠ 0#8) : isIllegal w :=
  (illegalWordsChangeOnlyStatus.1 w).2 (.inr (.inr (.inr (.inr (.inl ⟨hop, h⟩)))))

/-- GF_LOG, GF_ALOG and PG_BYTE have w[23:8] = 0 (R85). -/
theorem isIllegal_of_formatU {w : Word} (hop : opcode w = 0x03 ∨ opcode w = 0x04 ∨ opcode w = 0x11)
    (h : w.extractLsb' 8 16 ≠ 0#16) : isIllegal w :=
  (illegalWordsChangeOnlyStatus.1 w).2 (.inr (.inr (.inr (.inr (.inr (.inl ⟨hop, h⟩))))))

/-- Settles O10: the command is one write of RESULT. -/
theorem gfAddWritesXor : Obligations.GfAddWritesXor :=
  ⟨fun _ _ _ => exec_eq_done_of_outcome_setResult rfl, fun _ hop =>
    ⟨fun h0 => decode_eq_ok_iff.2 (formatR_eq_iff.2 ⟨hop, h0, rfl, rfl⟩),
      isIllegal_of_formatR (.inl hop)⟩⟩

/-- Settles O11: the result is `gf_mul`, by its two cases, and under the invariant the field product,
where 1 is the unit and 2 * 4 = x * x^2 needs no reduction. -/
theorem gfMulWritesTableProduct : Obligations.GfMulWritesTableProduct := by
  refine ⟨fun a b s => ⟨?_, fun ha hb => ?_⟩, fun s hs => ⟨fun b => ?_, ?_⟩, fun w hop =>
    ⟨fun h0 => decode_eq_ok_iff.2 (formatR_eq_iff.2 ⟨hop, h0, rfl, rfl⟩),
      isIllegal_of_formatR (.inr hop)⟩⟩
  · rintro (rfl | rfl)
    · rw [exec_gfMul, gfMul_zero_left]; rfl
    · rw [exec_gfMul, gfMul_zero_right]; rfl
  · rw [exec_gfMul, gfMul_of_ne_zero _ ha hb]
  · have h1 : fieldMul s.params.gfPoly 1 b = b := fieldMul_one_left _ b
    rw [exec_gfMul, hs.gfMul_eq, h1]
  · have h24 : fieldMul s.params.gfPoly 0x02 0x04 = 0x08 :=
      fieldMul_shiftLeft_one _ (i := 1) (j := 2) (by decide)
    rw [exec_gfMul, hs.gfMul_eq, h24]
    rfl

/-- Settles O12: LOG[1] is 0 because 0 is a place of 1 in ALOG, and LOG gives the one place. -/
theorem gfLogWritesLog : Obligations.GfLogWritesLog := by
  refine ⟨fun _ _ => exec_eq_done_of_outcome_setResult rfl, fun s hs => ?_, fun w hop =>
    ⟨fun h0 => decode_eq_ok_iff.2 (formatU_eq_iff.2 ⟨hop, h0, rfl⟩),
      isIllegal_of_formatU (.inl hop)⟩⟩
  obtain ⟨hlog0, hlog⟩ := logInvertsAlog s hs
  obtain ⟨-, -, halog0, -⟩ := alogHoldsEveryNonzeroElementOnce s hs
  obtain ⟨-, -, hone⟩ := hlog 1 (by decide)
  exact ⟨hlog0, (hone 0 (by decide) halog0).symm, fun a ha => (hlog a ha).1⟩

/-- Settles O13: the entries of ALOG are those of R20. -/
theorem gfAlogWritesAlog : Obligations.GfAlogWritesAlog := by
  refine ⟨fun _ _ => exec_eq_done_of_outcome_setResult rfl, fun s hs => ?_, fun w hop =>
    ⟨fun h0 => decode_eq_ok_iff.2 (formatU_eq_iff.2 ⟨hop, h0, rfl⟩),
      isIllegal_of_formatU (.inr (.inl hop))⟩⟩
  obtain ⟨-, h255, h0, hne, -⟩ := alogHoldsEveryNonzeroElementOnce s hs
  exact ⟨h0, h255.trans h0, hne⟩

end Sys2Proof.Machine

/-! ### The Parity Generator (41_parity_generator.md) -/

namespace Sys2Proof.Machine

open Claims

/-! #### The four commands (R126 to R129) -/

/-- A command that ends with an error. -/
theorem exec_eq_failed_of_outcome_error {i : Instr} {s : State} {c : ErrCode}
    (h : outcome i s = .error c) : exec i s = .next (failed s c.code) := by
  rw [exec_eq, h]
  rfl

section Commands

variable (s : State)

theorem exec_pgClr {str : BitVec 4} (h : str = 3 ∨ str = 4) : exec (.pgClr str) s
    = .next (done { s with acc := Cells.zero, pgcnt := 0, pgstr := str }) := by
  rcases h with rfl | rfl <;> rfl

theorem outcome_pgClr_of_illegal {str : BitVec 4} (h3 : str ≠ 3) (h4 : str ≠ 4) :
    outcome (.pgClr str) s = .error .cfgBadStrength :=
  if_neg (by simpa [legalStrength] using ⟨h3, h4⟩)

theorem exec_pgByte (h : s.pgcnt ≠ 128) (d : Byte) : exec (.pgByte d) s
    = .next (done { s with
        pgcnt := s.pgcnt + 1, acc := pgStep s.rom s.params s.acc d s.pgstr }) := by
  rw [exec_eq, outcome, if_neg h]
  rfl

theorem exec_pgPar (h : s.pgcnt = 128) :
    exec .pgPar s = .next (done { s with result := pack s.acc s.pgstr }) :=
  exec_eq_done_of_outcome_setResult (if_pos h)

theorem exec_pgChunk {k : BitVec 24} (h : k.toNat + 128 ≤ s.params.maxBlockSize) {ch : List Byte}
    (hch : s.memRead k.toNat 128 = ch) : exec (.pgChunk k) s
    = .next (done { s with
        acc := chunkAcc s.rom s.params ch s.pgstr, pgcnt := 128
        result := pack (chunkAcc s.rom s.params ch s.pgstr) s.pgstr, draws := s.draws + 128 }) := by
  have hout : outcome (.pgChunk k) s = .ok (s.pgChunk k.toNat) := if_neg (Nat.not_lt.2 h)
  rw [exec_eq, hout, ← hch]
  rfl

end Commands

/-- What `pgStep` does for strength 3 (R121). -/
theorem pgStep_three (r : Rom) (p : Params) (acc : Cells) (d : Byte) :
    pgStep r p acc d 3 = ⟨gfMul r (d ^^^ acc.c2) g3_0, acc.c0 ^^^ gfMul r (d ^^^ acc.c2) g3_1,
      acc.c1 ^^^ gfMul r (d ^^^ acc.c2) g3_2, acc.c3⟩ := rfl

/-- What `pgStep` does for strength 4 (R120). -/
theorem pgStep_four (r : Rom) (p : Params) (acc : Cells) (d : Byte) :
    pgStep r p acc d 4 = ⟨gfMul r (d ^^^ acc.c3) p.g4_0, acc.c0 ^^^ gfMul r (d ^^^ acc.c3) p.g4_1,
      acc.c1 ^^^ gfMul r (d ^^^ acc.c3) p.g4_2, acc.c2 ^^^ gfMul r (d ^^^ acc.c3) p.g4_3⟩ := rfl

/-- The bytes of a word made of four (R65). -/
theorem bytes_of_append (b3 b2 b1 b0 : Byte) :
    (b3 ++ b2 ++ b1 ++ b0).extractLsb' 0 8 = b0 ∧ (b3 ++ b2 ++ b1 ++ b0).extractLsb' 8 8 = b1 ∧
    (b3 ++ b2 ++ b1 ++ b0).extractLsb' 16 8 = b2 ∧ (b3 ++ b2 ++ b1 ++ b0).extractLsb' 24 8 = b3 := by
  obtain ⟨h210, h0⟩ := append_eq_iff.1 (Eq.refl (b3 ++ b2 ++ b1 ++ b0))
  obtain ⟨h32, h1⟩ := extractLsb'_eq_append_iff.1 h210
  obtain ⟨h3, h2⟩ := extractLsb'_eq_append_iff.1 h32
  exact ⟨h0, h1, h2, h3⟩

/-- NOP, PG_PAR and ASM_BLOCK have w[23:0] = 0 (R85). -/
theorem isIllegal_of_formatN {w : Word} (hop : opcode w = 0x00 ∨ opcode w = 0x12 ∨ opcode w = 0x21)
    (h : w.extractLsb' 0 24 ≠ 0#24) : isIllegal w :=
  (illegalWordsChangeOnlyStatus.1 w).2 (.inr (.inr (.inr (.inl ⟨hop, h⟩))))

/-- PG_CLR has w[23:4] = 0 (R85). -/
theorem isIllegal_of_formatS {w : Word} (hop : opcode w = 0x10) (h : w.extractLsb' 4 20 ≠ 0#20) :
    isIllegal w :=
  (illegalWordsChangeOnlyStatus.1 w).2 (.inr (.inr (.inr (.inr (.inr (.inr ⟨hop, h⟩))))))

/-- Settles O19: the strength decides, and w[23:4] are the "must be 0" bits of format S. -/
theorem pgClrStartsAChunk : Obligations.PgClrStartsAChunk := by
  refine ⟨fun str s => ⟨exec_pgClr s, fun h3 h4 => ?_⟩, fun w hop =>
    ⟨fun h0 => decode_eq_ok_iff.2 (formatS_eq_iff.2 ⟨hop, h0, rfl⟩), isIllegal_of_formatS hop⟩⟩
  exact exec_eq_failed_of_outcome_error (outcome_pgClr_of_illegal s h3 h4)

/-- Settles O20: below 128 bytes the command is one step of the kernel. -/
theorem pgByteStepsTheKernel : Obligations.PgByteStepsTheKernel := by
  refine ⟨fun d s => ⟨fun h => ?_, fun h h4 => ?_, fun h h3 => ?_⟩, fun w hop =>
    ⟨fun h0 => decode_eq_ok_iff.2 (formatU_eq_iff.2 ⟨hop, h0, rfl⟩),
      isIllegal_of_formatU (.inr (.inr hop))⟩⟩
  · exact exec_eq_failed_of_outcome_error (i := .pgByte d) (c := .pgOverrun) (if_pos h)
  · rw [exec_pgByte s h, h4, pgStep_four]
  · rw [exec_pgByte s h, h3, pgStep_three]
    rfl

/-- Settles O21: `pack` puts the cells of the strength together, and format N has no operand. -/
theorem pgParPacksTheParity : Obligations.PgParPacksTheParity := by
  have hword : formatN 0x12 = 0x12000000 := by decide
  refine ⟨fun s => ⟨fun h => ?_, fun h h4 => ?_, fun h h3 => ?_⟩, fun w hop => ⟨?_, fun hne => ?_⟩⟩
  · exact exec_eq_failed_of_outcome_error (i := .pgPar) (c := .pgIncomplete) (if_neg h)
  · refine ⟨_, exec_pgPar s h, ?_⟩
    rw [h4]
    exact bytes_of_append s.acc.c0 s.acc.c1 s.acc.c2 s.acc.c3
  · refine ⟨_, exec_pgPar s h, ?_⟩
    rw [h3]
    exact bytes_of_append 0 s.acc.c0 s.acc.c1 s.acc.c2
  · rintro rfl
    exact decode_eq_ok_iff.2 hword
  · have h0 : w.extractLsb' 0 24 ≠ 0#24 := fun h0 =>
      hne ((formatN_eq_iff.2 ⟨hop, h0⟩).symm.trans hword)
    exact isIllegal_of_formatN (.inr (.inl hop)) h0

/-- Settles O22: the chunk is what the ENGINE's read of IBUF gives. -/
theorem pgChunkComputesTheParity : Obligations.PgChunkComputesTheParity := by
  refine ⟨fun k s => ⟨fun h => ?_, fun h => ?_⟩, fun w hop =>
    decode_eq_ok_iff.2 (formatX_eq_iff.2 ⟨hop, rfl⟩)⟩
  · exact exec_eq_failed_of_outcome_error (i := .pgChunk k) (c := .range) (if_pos h)
  · refine ⟨_, readFrom_readBytes s.ibuf k.toNat 128 s.draws, _, _, exec_pgChunk s h rfl,
      fun h4 => ?_, fun h3 => ?_⟩
    · rw [h4]
      rfl
    · rw [h3]
      rfl

/-! #### A chunk byte by byte (R122, R127 to R129) -/

/-- The accumulator after the bytes `ch`, from `acc`; `chunkAcc` starts from zero. -/
def Cells.fed (r : Rom) (p : Params) (str : BitVec 4) (acc : Cells) (ch : List Byte) : Cells :=
  ch.foldl (fun acc d => pgStep r p acc d str) acc

theorem Cells.fed_zero (r : Rom) (p : Params) (str : BitVec 4) (ch : List Byte) :
    Cells.zero.fed r p str ch = chunkAcc r p ch str := rfl

@[simp] theorem Cells.fed_nil (r : Rom) (p : Params) (str : BitVec 4) (acc : Cells) :
    acc.fed r p str [] = acc := rfl

@[simp] theorem Cells.fed_cons (r : Rom) (p : Params) (str : BitVec 4) (acc : Cells) (d : Byte)
    (ch : List Byte) : acc.fed r p str (d :: ch) = (pgStep r p acc d str).fed r p str ch := rfl

theorem runCommands_cons {i : Instr} {s t : State} (h : exec i s = .next t) (is : List Instr) :
    runCommands (i :: is) s = runCommands is t := by
  rw [runCommands, h]

/-- PG_BYTE for each of a list of bytes, as many as PGCNT leaves room for (R127). -/
theorem runCommands_map_pgByte (s : State) (ch : List Byte) (h : s.pgcnt.toNat + ch.length ≤ 128)
    (is : List Instr) :
    runCommands (ch.map .pgByte ++ is) (done s) = runCommands is (done { s with
      pgcnt := s.pgcnt + BitVec.ofNat 8 ch.length
      acc := s.acc.fed s.rom s.params s.pgstr ch }) := by
  induction ch generalizing s with
  | nil => simp
  | cons d ch ih =>
    rw [List.length_cons] at h
    have hroom : s.pgcnt ≠ 128 := by bv_omega
    have hcount : s.pgcnt + 1 + BitVec.ofNat 8 ch.length
        = s.pgcnt + BitVec.ofNat 8 (ch.length + 1) := by bv_omega
    rw [List.map_cons, List.cons_append, runCommands_cons (exec_pgByte (done s) hroom d)]
    refine (ih { s with
      pgcnt := s.pgcnt + 1, acc := pgStep s.rom s.params s.acc d s.pgstr } ?_).trans ?_
    · dsimp only
      bv_omega
    · rw [List.length_cons, ← hcount, Cells.fed_cons]

theorem exec_pgChunk_of_holds {s : State} {k : BitVec 24}
    (h : k.toNat + 128 ≤ s.params.maxBlockSize) {ch : List Byte} (hlen : ch.length = 128)
    (hch : holds s.ibuf k.toNat ch) : exec (.pgChunk k) s
    = .next (done { s with
        acc := chunkAcc s.rom s.params ch s.pgstr, pgcnt := 128
        result := pack (chunkAcc s.rom s.params ch s.pgstr) s.pgstr, draws := s.draws + 128 }) :=
  exec_pgChunk s h (Memory.readBytes_written hlen hch _)

/-- Settles O23: both ways end with the accumulator of the chunk, 128 bytes counted, and its pack. -/
theorem feedingBytesAgreesWithPgChunk : Obligations.FeedingBytesAgreesWithPgChunk := by
  intro s k ch hs hk hlen hch
  have hbytes : runCommands (.pgClr s.pgstr :: (ch.map .pgByte ++ [.pgPar])) s
      = runCommands [.pgPar] (done { s with
          acc := chunkAcc s.rom s.params ch s.pgstr, pgcnt := 128 }) := by
    rw [runCommands_cons (exec_pgClr s hs.pgstr_legal),
      runCommands_map_pgByte _ ch (by rw [hlen]; rfl), hlen]
    rfl
  exact ⟨_, _, hbytes.trans (runCommands_cons (exec_pgPar _ rfl) []),
    exec_pgChunk_of_holds hk hlen hch, rfl⟩

/-! #### The remainder (R124)

Feeding a byte `d` makes D(x) into x·D(x) + d. When D(x)·x^n = q·g + R, that is
(x·D + d)·x^n = (x·q + fb)·g + R', where fb = d + (top coefficient of R) and R' = x·R + d·x^n - fb·g
has no x^n left, g being monic: R' is the kernel's next accumulator. -/

/-- The product by `a + x·q` is the product by `a`, and that by `q` one degree up. -/
theorem productCoeff_cons_zero (r : Rom) (a : Byte) (q g : List Byte) :
    productCoeff r (a :: q) g 0 = gfMul r a (g.getD 0 0) := by
  simp [productCoeff]

theorem productCoeff_cons_succ (r : Rom) (a : Byte) (q g : List Byte) (i : Nat) :
    productCoeff r (a :: q) g (i + 1)
      = gfMul r a (g.getD (i + 1) 0) ^^^ productCoeff r q g i := by
  rw [productCoeff, List.range_succ_eq_map, List.foldl_cons, List.foldl_map, BitVec.xor_comm]
  simp only [List.getD_cons_succ, Nat.succ_eq_add_one, Nat.add_sub_add_right]
  exact List.foldl_hom (gfMul r a (g.getD (i + 1) 0) ^^^ ·) fun _ _ => BitVec.xor_assoc _ _ _

theorem productCoeff_nil (r : Rom) (g : List Byte) (i : Nat) : productCoeff r [] g i = 0 :=
  List.foldl_fixed' (fun _ => by rw [List.getD_nil, gfMul_zero_left]; rfl) _

/-- The coefficients of (x·D + d)·x^n. -/
theorem shiftedDataCoeff_concat_zero (ch : List Byte) (d : Byte) {n : Nat} (hn : 0 < n) :
    shiftedDataCoeff (ch ++ [d]) n 0 = 0 := if_pos hn

theorem shiftedDataCoeff_concat_succ (ch : List Byte) (d : Byte) (n i : Nat) :
    shiftedDataCoeff (ch ++ [d]) n (i + 1)
      = shiftedDataCoeff ch n i ^^^ if i + 1 = n then d else 0 := by
  simp only [shiftedDataCoeff, List.reverse_append, List.reverse_singleton, List.singleton_append]
  rcases Nat.lt_trichotomy (i + 1) n with h | h | h
  · rw [if_pos h, if_pos (by omega), if_neg (by omega)]
    rfl
  · rw [if_neg (by omega), if_pos (by omega), if_pos h, h, Nat.sub_self]
    simp
  · rw [if_neg (by omega), if_neg (by omega), if_neg (by omega), Nat.succ_sub (by omega)]
    simp

/-- The highest-order cell in use (R120). -/
def Cells.top (acc : Cells) (str : BitVec 4) : Byte := if str = 4 then acc.c3 else acc.c2

section Remainder

variable {str : BitVec 4} (hstr : str = 3 ∨ str = 4) (r : Rom) (p : Params) (acc : Cells) (d : Byte)
include hstr

theorem remainderCoeffs_pgStep_zero :
    (remainderCoeffs (pgStep r p acc d str) str).getD 0 0
      = gfMul r (d ^^^ acc.top str) ((generator p str).getD 0 0) := by
  rcases hstr with rfl | rfl <;> rfl

/-- fb·g + R' = x·R + d·x^n above x^0, where g is monic. -/
theorem remainderCoeffs_pgStep_succ (hone : ∀ a, gfMul r a 1#8 = a) (i : Nat) :
    gfMul r (d ^^^ acc.top str) ((generator p str).getD (i + 1) 0)
        ^^^ (remainderCoeffs (pgStep r p acc d str) str).getD (i + 1) 0
      = (remainderCoeffs acc str).getD i 0 ^^^ if i + 1 = str.toNat then d else 0 := by
  have hzero : ∀ a, gfMul r a 0#8 = 0#8 := gfMul_zero_right r
  have hcancel : ∀ a b : Byte, a ^^^ (b ^^^ a) = b := fun a b => by
    rw [BitVec.xor_comm b, ← BitVec.xor_assoc, BitVec.xor_self, BitVec.zero_xor]
  rcases hstr with rfl | rfl
  · rw [pgStep_three]
    match i with
    | 0 | 1 => simp [remainderCoeffs, generator, Cells.top, g3_1, g3_2, hcancel]
    | 2 => simp [remainderCoeffs, generator, Cells.top, hone, BitVec.xor_comm]
    | i + 3 => simp [remainderCoeffs, generator, hzero]
  · rw [pgStep_four]
    match i with
    | 0 | 1 | 2 => simp [remainderCoeffs, generator, Cells.top, hcancel]
    | 3 => simp [remainderCoeffs, generator, Cells.top, hone, BitVec.xor_comm]
    | i + 4 => simp [remainderCoeffs, generator, hzero]

theorem remainderCoeffs_zero (i : Nat) : (remainderCoeffs Cells.zero str).getD i 0 = 0 := by
  rcases hstr with rfl | rfl
  · exact List.getElem?_getD_replicate_default_eq 0 3 i
  · exact List.getElem?_getD_replicate_default_eq 0 4 i

/-- The quotient and the remainder after any number of bytes. -/
theorem exists_quotient (hone : ∀ a, gfMul r a 1#8 = a) (ch : List Byte) :
    ∃ q : List Byte, q.length = ch.length ∧ ∀ i,
      shiftedDataCoeff ch str.toNat i
        = productCoeff r q (generator p str) i
          ^^^ (remainderCoeffs (chunkAcc r p ch str) str).getD i 0 := by
  have hpos : 0 < str.toNat := by rcases hstr with rfl | rfl <;> decide
  induction ch using List.reverseRecOn with
  | nil =>
    refine ⟨[], rfl, fun i => ?_⟩
    rw [productCoeff_nil, chunkAcc_nil, remainderCoeffs_zero hstr]
    simp [shiftedDataCoeff]
  | append_singleton ch d ih =>
    obtain ⟨q, hlen, hq⟩ := ih
    refine ⟨(d ^^^ (chunkAcc r p ch str).top str) :: q, by simp [hlen], fun i => ?_⟩
    rw [chunkAcc_concat]
    cases i with
    | zero =>
      rw [shiftedDataCoeff_concat_zero _ _ hpos, productCoeff_cons_zero,
        remainderCoeffs_pgStep_zero hstr, BitVec.xor_self]
      rfl
    | succ i =>
      rw [shiftedDataCoeff_concat_succ, productCoeff_cons_succ, hq, BitVec.xor_assoc,
        ← remainderCoeffs_pgStep_succ hstr r p _ d hone]
      ac_rfl

end Remainder

/-- Settles O24: the quotient's coefficients are the feedback bytes, the last one first. -/
theorem chunkAccIsTheRemainder : Obligations.ChunkAccIsTheRemainder := by
  intro s str ch hs hstr hlen
  obtain ⟨-, hone, -⟩ := fieldLaws s hs
  obtain ⟨q, hq, hcoeff⟩ := exists_quotient hstr s.rom s.params hone ch
  exact ⟨q, hq.trans hlen, hcoeff⟩

/-! #### The laws of chunk parity (R130) -/

/-- The sum of two accumulators, cell by cell. -/
def Cells.add (a b : Cells) : Cells :=
  ⟨a.c0 ^^^ b.c0, a.c1 ^^^ b.c1, a.c2 ^^^ b.c2, a.c3 ^^^ b.c3⟩

theorem parityBytes_add (a b : Cells) (str : BitVec 4) :
    parityBytes (a.add b) str
      = List.zipWith (· ^^^ ·) (parityBytes a str) (parityBytes b str) := by
  unfold parityBytes
  split <;> rfl

/-- The kernel is linear in the accumulator and the byte, because the field product is. -/
theorem State.Inv.pgStep_add {s : State} (hs : s.Inv) (a b : Cells) (d e : Byte) (str : BitVec 4) :
    pgStep s.rom s.params (a.add b) (d ^^^ e) str
      = (pgStep s.rom s.params a d str).add (pgStep s.rom s.params b e str) := by
  unfold pgStep
  split <;>
    simp only [Cells.add, gfAdd, hs.gfMul_eq, fieldMul_xor_left, BitVec.xor_assoc, byte_xor_left_comm]

/-- So it is over two chunks byte by byte. -/
theorem State.Inv.fed_add {s : State} (hs : s.Inv) (str : BitVec 4) {ch ch' : List Byte}
    (h : ch.length = ch'.length) (a b : Cells) :
    (a.add b).fed s.rom s.params str (List.zipWith (· ^^^ ·) ch ch')
      = (a.fed s.rom s.params str ch).add (b.fed s.rom s.params str ch') := by
  induction ch generalizing ch' a b with
  | nil =>
    obtain rfl := List.eq_nil_of_length_eq_zero h.symm
    rfl
  | cons d ch ih =>
    cases ch' with
    | nil => cases h
    | cons e ch' =>
      rw [List.zipWith_cons_cons, Cells.fed_cons, Cells.fed_cons, Cells.fed_cons, hs.pgStep_add]
      exact ih (Nat.succ.inj h) _ _

@[simp] theorem Cells.zero_add_zero : Cells.zero.add Cells.zero = Cells.zero := rfl

theorem State.Inv.chunkAcc_add {s : State} (hs : s.Inv) (str : BitVec 4) {ch ch' : List Byte}
    (h : ch.length = ch'.length) :
    chunkAcc s.rom s.params (List.zipWith (· ^^^ ·) ch ch') str
      = (chunkAcc s.rom s.params ch str).add (chunkAcc s.rom s.params ch' str) := by
  simpa only [Cells.zero_add_zero, Cells.fed_zero] using hs.fed_add str h Cells.zero Cells.zero

theorem pgStep_zero_zero (r : Rom) (p : Params) (str : BitVec 4) :
    pgStep r p Cells.zero 0 str = Cells.zero := by
  have hzero : ∀ b, gfMul r 0#8 b = 0#8 := gfMul_zero_left r
  unfold pgStep
  split <;> simp [Cells.zero, gfAdd, hzero]

theorem chunkAcc_replicate_zero (r : Rom) (p : Params) (n : Nat) (str : BitVec 4) :
    chunkAcc r p (List.replicate n 0) str = Cells.zero := by
  induction n with
  | zero => rfl
  | succ n ih => rw [List.replicate_succ', chunkAcc_concat, ih, pgStep_zero_zero]

theorem parityBytes_zero {str : BitVec 4} (h : str = 3 ∨ str = 4) :
    parityBytes Cells.zero str = List.replicate str.toNat 0 := by
  rcases h with rfl | rfl <;> rfl

/-- One byte into the zero accumulator gives its products with the generator below x^n. -/
theorem parityBytes_pgStep_zero (r : Rom) (p : Params) (v : Byte) {str : BitVec 4}
    (h : str = 3 ∨ str = 4) :
    parityBytes (pgStep r p Cells.zero v str) str
      = ((generator p str).take str.toNat).reverse.map (fun g => gfMul r v g) := by
  rcases h with rfl | rfl
  · rw [pgStep_three]
    simp [parityBytes, generator, Cells.zero, g3_0, g3_1, g3_2]
  · rw [pgStep_four]
    simp [parityBytes, generator, Cells.zero]

/-- Settles O25: a chunk that was written is read as itself; the other laws are those of the kernel. -/
theorem chunkParityLaws : Obligations.ChunkParityLaws := by
  refine ⟨?_, fun s hs str hstr => ⟨?_, fun ch ch' hch hch' => ?_, fun v => ?_, fun acc d =>
    pgStep_c3 _ _ _ _ (by decide)⟩⟩
  · intro s s' t t' k k' ch hlen hrom hparams hpgstr hch hch' hk hk' ht ht'
    rw [exec_pgChunk_of_holds hk hlen hch] at ht
    rw [exec_pgChunk_of_holds (hparams ▸ hk') hlen hch', ← hrom, ← hparams, ← hpgstr] at ht'
    cases ht
    cases ht'
    exact ⟨rfl, rfl⟩
  · rw [chunkParity, chunkAcc_replicate_zero, parityBytes_zero hstr]
  · rw [chunkParity, hs.chunkAcc_add str (hch.trans hch'.symm), parityBytes_add]
    rfl
  · rw [chunkParity, chunkAcc_concat, chunkAcc_replicate_zero, parityBytes_pgStep_zero _ _ v hstr]

end Sys2Proof.Machine

/-! ### The Layout Assembler (42_layout_assembler.md) -/

namespace Sys2Proof.Machine

open Claims

/-! #### The configuration (R151 to R154) -/

/-- With strength 0 or 4 the fill flags come first, and the strength decides only without them. -/
theorem resolve_of_zero_or_four {cfg : Word} (h : cfgStrength cfg = 0 ∨ cfgStrength cfg = 4) :
    resolve cfg = if cfgZeroFill cfg = true ∧ cfgOnesFill cfg = true then .error .cfgFillConflict
      else if cfgZeroFill cfg = true then .ok .zero
      else if cfgOnesFill cfg = true then .ok .ones
      else if cfgStrength cfg = 4 then .ok .ecc4
      else .error .cfgNoMode := by
  rcases h with h | h <;> rw [resolve, h] <;> rfl

/-- Settles O26: MODE shows what `resolve` answers, and strength 3 alone ignores the fill flags. -/
theorem modeResolution : Obligations.ModeResolution := by
  intro cfg
  have hok : ∀ m, resolve cfg = .ok m → resolve cfg = .ok m ∧
      modeWord cfg = 0#23 ++ 1#1 ++ 0#6 ++ m.code := fun _ h => ⟨h, by rw [modeWord, h]⟩
  have herror : ∀ c, resolve cfg = .error c → resolve cfg = .error c ∧
      modeWord cfg = 0#16 ++ c.code ++ 0#12 := fun _ h => ⟨h, by rw [modeWord, h]⟩
  have hfill := @resolve_of_zero_or_four cfg
  rw [cfgStrength, cfgZeroFill, cfgOnesFill] at hfill
  refine ⟨fun h => hok .ecc3 ?_, fun h0 h3 h4 => herror .cfgBadStrength (if_pos ⟨h0, h3, h4⟩),
    fun h => ⟨fun hz ho => herror .cfgFillConflict ?_, fun hz ho => hok .zero ?_,
      fun hz ho => hok .ones ?_⟩,
    fun h hz ho => hok .ecc4 ?_, fun h hz ho => herror .cfgNoMode ?_⟩
  · rw [resolve, cfgStrength, h]; rfl
  · rw [hfill h, hz, ho]; rfl
  · rw [hfill h, hz, ho]; rfl
  · rw [hfill h, hz, ho]; rfl
  · rw [hfill (.inr h), hz, ho, h]; rfl
  · rw [hfill (.inl h), hz, ho, h]; rfl

theorem resolve_eq_cfgBadStrength_iff (cfg : Word) :
    resolve cfg = .error .cfgBadStrength ↔
      cfgStrength cfg ≠ 0 ∧ cfgStrength cfg ≠ 3 ∧ cfgStrength cfg ≠ 4 := by
  by_cases hbad : cfgStrength cfg ≠ 0 ∧ cfgStrength cfg ≠ 3 ∧ cfgStrength cfg ≠ 4
  · exact iff_of_true (if_pos hbad) hbad
  · refine iff_of_false ?_ hbad
    rw [resolve, if_neg hbad]
    split_ifs <;> nofun

theorem Mode.isEcc_iff (m : Mode) : m.isEcc = true ↔ m = .ecc3 ∨ m = .ecc4 := by
  cases m <;> simp [Mode.isEcc]

/-- An assembler command checks the configuration before anything else. -/
theorem exec_asm_of_checkCfg_error {s : State} {i : Instr}
    (hi : i = .asmBlock ∨ ∃ k, i = .asmPage k) {c : ErrCode} (h : checkCfg s = .error c) :
    exec i s = .next (failed s c.code) := by
  apply exec_eq_failed_of_outcome_error
  rcases hi with rfl | ⟨k, rfl⟩ <;> rw [outcome, h]

/-- Settles O27: the branches of `checkCfg`, one after the other. -/
theorem configurationErrorsInOrder : Obligations.ConfigurationErrorsInOrder := by
  intro s i hi
  have hfail : ∀ c, checkCfg s = .error c → exec i s = .next (failed s c.code) :=
    fun _ => exec_asm_of_checkCfg_error hi
  have hcheck := checkCfg.eq_1 s
  simp only [← Mode.isEcc_iff, ne_eq, ← Nat.not_lt, resolve_eq_cfgBadStrength_iff] at hcheck ⊢
  refine ⟨fun h => hfail .cfgZeroBlock (hcheck.trans (if_pos h)), fun hblock => ?_⟩
  rw [if_neg hblock] at hcheck
  refine ⟨fun h => hfail .cfgZeroPage (hcheck.trans (if_pos h)), fun hpage => ?_⟩
  rw [if_neg hpage] at hcheck
  refine ⟨fun h => hfail .cfgPageNotMult32 (hcheck.trans (if_pos h)), fun hmult => ?_⟩
  rw [if_neg (not_not.2 hmult)] at hcheck
  refine ⟨fun h => hfail .cfgBadStrength (hcheck.trans (if_pos h)), fun hstrength => ?_⟩
  rw [if_neg hstrength] at hcheck
  refine ⟨fun h => hfail .cfgBlockTooBig (hcheck.trans (if_pos h)), fun hbig => ?_⟩
  rw [if_neg hbig] at hcheck
  refine ⟨fun h => hfail .cfgBlockNotMultPage (hcheck.trans (if_pos h)), fun hpages => ?_⟩
  rw [if_neg (not_not.2 hpages)] at hcheck
  refine ⟨fun h => hfail .cfgFillConflict ?_, fun h => hfail .cfgNoMode ?_, fun m h => ?_⟩
  · rw [hcheck, h]
  · rw [hcheck, h]
  · rw [h] at hcheck
    exact ⟨fun hecc h128 => hfail .cfgEccPageNotMult128 (hcheck.trans (if_pos ⟨hecc, h128⟩)),
      fun h128 => hcheck.trans (if_neg fun ⟨hecc, hne⟩ => hne (h128 hecc))⟩

/-- R7 bounds MAX_BLOCK_SIZE. -/
theorem State.Inv.maxBlockSize_le {s : State} (hs : s.Inv) : s.params.maxBlockSize ≤ 2 ^ 24 := by
  have h := hs.params_wf
  simp only [Params.wf, Bool.and_eq_true, decide_eq_true_eq] at h
  exact h.2

theorem CheckedLayout.pages_pos {s : State} {l : Layout} (h : CheckedLayout s l) : 0 < l.pages :=
  Nat.div_pos (Nat.le_of_dvd h.block_pos (Nat.dvd_of_mod_eq_zero h.block_mult)) h.page_pos

/-- Settles O28: the arithmetic of a checked layout; OUT is far below 2^32. -/
theorem outputSizes : Obligations.OutputSizes := by
  intro s l hs hl
  have hc := checkedLayout_of_ok hl
  obtain ⟨hblock, hpage, hout⟩ := hc.sizes
  refine ⟨hc.pages_pos, hblock, hpage, fun hecc => ?_, rfl, hout, hc.outLen_le, ?_,
    fun i => ⟨rfl, rfl, rfl, ?_⟩⟩
  · have h128 := hc.ecc_mult hecc
    unfold Layout.chunks Layout.oob
    omega
  · have hle := hc.block_le
    have hmax := hs.maxBlockSize_le
    rw [outlenWord, ← hc.block_eq, ← hout, BitVec.toNat_ofNat, Nat.mod_eq_of_lt (by omega)]
  · unfold Layout.oobAt Layout.outAt
    ring

/-! #### One page (R155 to R158, R160) -/

theorem exec_asmPage {s : State} {l : Layout} (hl : checkCfg s = .ok l) {k : BitVec 24}
    (hk : k.toNat < l.pages) :
    exec (.asmPage k) s = .next (s.assemblePage l k.toNat).succeed := by
  have hin : ¬ l.pages ≤ pageIndex k := Nat.not_le.2 hk
  simp only [exec_eq, outcome, hl, if_neg hin]
  rfl

/-- Settles O29: the page is assembled when the block has it, inside its own part of OBUF. -/
theorem asmPageLaysOutItsPage : Obligations.AsmPageLaysOutItsPage := by
  intro s l k hl
  refine ⟨fun hk => ?_, fun hk => ?_⟩
  · have hout : outcome (.asmPage k) s = .error .range := by
      simp only [outcome, hl]
      exact if_pos hk
    exact exec_eq_failed_of_outcome_error hout
  · have hecc := (checkedLayout_of_ok hl).ecc_mult
    have hnext := l.outAt_succ k.toNat
    refine ⟨_, exec_asmPage hl hk, (s.assemblePage_frame l _).onlyObufFrom,
      pageLaidOut_of_assemblePage (State.AsmFrame.refl s).keeps hecc fun _ _ _ => rfl,
      fun a ha => s.assemblePage_outside l k.toNat hecc ?_⟩
    rw [← hnext]
    exact ha

/-! #### The laid out bytes are determined by a written block (R160 to R162)

OBUF byte `a` below OUT belongs to page `a / (P + O)`. -/

/-- A read of written bytes gives those bytes. -/
theorem readFrom_unique {m m' : Memory} {off n : Nat} {ch ch' : List Byte}
    (hch : readFrom m off n ch) (hch' : readFrom m' off n ch')
    (h : ∀ j, j < n → ∃ b, m.byteAt (off + j) = some b ∧ m'.byteAt (off + j) = some b) :
    ch = ch' := by
  obtain ⟨hlen, hbyte⟩ := hch
  obtain ⟨hlen', hbyte'⟩ := hch'
  refine List.ext_getElem? fun j => ?_
  rcases Nat.lt_or_ge j n with hj | hj
  · obtain ⟨b, hb, hb'⟩ := h j hj
    rw [hbyte j b hj hb, hbyte' j b hj hb']
  · rw [List.getElem?_eq_none (hlen.trans_le hj), List.getElem?_eq_none (hlen'.trans_le hj)]

/-- The states have the same ROMs and parameters, and the same written bytes below `n` in IBUF. -/
structure SameBlockData (n : Nat) (s s' : State) : Prop where
  rom : s'.rom = s.rom
  params : s'.params = s.params
  written : ∀ a, a < n → ∃ b, s.ibuf.byteAt a = some b ∧ s'.ibuf.byteAt a = some b

section SameBlockData

variable {s s' t t' : State} {l : Layout} {i : Nat}

theorem CommandKeeps.sameBlockData (h : CommandKeeps s s') {n : Nat} (hw : allWritten s.ibuf n) :
    SameBlockData n s s' :=
  ⟨h.rom, h.params, fun a ha => by rw [h.ibuf]; simpa using hw a ha⟩

/-- The bytes of page `i`, and of its chunks, lie in the block. -/
theorem Layout.rawAt_add_lt (hi : i < l.block / l.page) {j : Nat} (hj : j < l.page) :
    i * l.page + j < l.block :=
  calc i * l.page + j < (i + 1) * l.page := by rw [Nat.succ_mul]; omega
    _ ≤ l.block / l.page * l.page := Nat.mul_le_mul_right _ hi
    _ ≤ l.block := Nat.div_mul_le_self _ _

/-- Two OBUFs in which a page is laid out from the same data hold the same OOB in an ECC mode: a slot
is the parity of a chunk that both read as the written bytes. -/
theorem ecc_byteAt_eq_of_pageLaidOut (hsame : SameBlockData l.block s s')
    (hi : i < l.block / l.page) (h : pageLaidOut s t l i) (h' : pageLaidOut s' t' l i)
    {str : BitVec 4} (hstr : strengthOf l.mode = some str) (hpos : 0 < str.toNat) {k : Nat}
    (hk : k < l.page / 32) :
    t'.obuf.byteAt (i * (l.page + l.page / 32) + l.page + k)
      = t.obuf.byteAt (i * (l.page + l.page / 32) + l.page + k) := by
  obtain ⟨-, -, -, hecc⟩ := h
  obtain ⟨-, -, -, hecc'⟩ := h'
  obtain ⟨hslots, hfill⟩ := hecc str hstr
  obtain ⟨hslots', hfill'⟩ := hecc' str hstr
  rcases Nat.lt_or_ge k (str.toNat * (l.page / 128)) with hin | hout
  · have hslot : k / str.toNat < l.page / 128 := Nat.div_lt_of_lt_mul hin
    obtain ⟨ch, hread, hch⟩ := hslots _ hslot
    obtain ⟨ch', hread', hch'⟩ := hslots' _ hslot
    obtain rfl : ch = ch' := readFrom_unique hread hread' fun j hj => by
      rw [Nat.add_assoc]
      exact hsame.written _ (Layout.rawAt_add_lt hi (by omega))
    obtain ⟨b, hparity, hb⟩ := hch (k % str.toNat) (Nat.mod_lt _ hpos)
    obtain ⟨b', hparity', hb'⟩ := hch' (k % str.toNat) (Nat.mod_lt _ hpos)
    rw [hsame.rom, hsame.params, hparity] at hparity'
    rw [Nat.add_assoc _ (_ * _), Nat.div_add_mod] at hb hb'
    rw [hb, hb', hparity']
  · rw [hfill k hout hk, hfill' k hout hk]

/-- They hold the same bytes in the page's whole part of OBUF, whatever the mode. -/
theorem byteAt_eq_of_pageLaidOut (hsame : SameBlockData l.block s s') (hi : i < l.block / l.page)
    (h : pageLaidOut s t l i) (h' : pageLaidOut s' t' l i) {j : Nat}
    (hj : j < l.page + l.page / 32) :
    t'.obuf.byteAt (i * (l.page + l.page / 32) + j)
      = t.obuf.byteAt (i * (l.page + l.page / 32) + j) := by
  have hecc := fun str => ecc_byteAt_eq_of_pageLaidOut hsame hi h h' (str := str)
  obtain ⟨hpage, hzero, hones, -⟩ := h
  obtain ⟨hpage', hzero', hones', -⟩ := h'
  rcases Nat.lt_or_ge j l.page with hlt | hge
  · obtain ⟨b, hb, hb'⟩ := hsame.written _ (Layout.rawAt_add_lt hi hlt)
    rw [(hpage j hlt).2 b hb, (hpage' j hlt).2 b hb']
  · obtain ⟨k, rfl⟩ := Nat.exists_eq_add_of_le hge
    rw [← Nat.add_assoc]
    have hk : k < l.page / 32 := by omega
    cases hm : l.mode with
    | zero => rw [hzero hm k hk, hzero' hm k hk]
    | ones => rw [hones hm k hk, hones' hm k hk]
    | ecc4 => exact hecc 4 (by rw [hm]; rfl) (by decide) hk
    | ecc3 => exact hecc 3 (by rw [hm]; rfl) (by decide) hk

/-- The same, by OBUF offset. -/
theorem byteAt_eq_of_pageLaidOut_div (hsame : SameBlockData l.block s s') {a : Nat}
    (hi : a / (l.page + l.oob) < l.pages) (hpos : 0 < l.page)
    (h : pageLaidOut s t l (a / (l.page + l.oob)))
    (h' : pageLaidOut s' t' l (a / (l.page + l.oob))) : t'.obuf.byteAt a = t.obuf.byteAt a := by
  have hbyte := byteAt_eq_of_pageLaidOut hsame hi h h' (Nat.mod_lt a (Nat.add_pos_left hpos l.oob))
  exact Nat.div_add_mod' a (l.page + l.oob) ▸ hbyte

theorem checkCfg_congr (hcfg : s'.cfg = s.cfg) (hpage : s'.pageSize = s.pageSize)
    (hblock : s'.blockSize = s.blockSize) (hparams : s'.params = s.params) :
    checkCfg s' = checkCfg s := by
  simp only [checkCfg, hcfg, hpage, hblock, hparams]

end SameBlockData

/-- Settles O32: both blocks are laid out, from the same data. -/
theorem asmBlockIsDeterministic : Obligations.AsmBlockIsDeterministic := by
  intro s s' t t' l hl hcfg hpage hblock hparams hrom hw hibuf ht ht' a ha
  have hsame : SameBlockData l.block s s' := ⟨hrom, hparams, fun a ha => by
    rw [hibuf a ha]
    simpa using hw a ha⟩
  have hl' : checkCfg s' = .ok l := (checkCfg_congr hcfg hpage hblock hparams).trans hl
  obtain ⟨u, hu, -, hlaid, -⟩ := asmBlockLaysOutTheBlock s l hl
  obtain ⟨u', hu', -, hlaid', -⟩ := asmBlockLaysOutTheBlock s' l hl'
  cases ht.symm.trans hu
  cases ht'.symm.trans hu'
  have hi : a / (l.page + l.oob) < l.pages := Nat.div_lt_of_lt_mul (by rwa [Nat.mul_comm])
  exact byteAt_eq_of_pageLaidOut_div hsame hi (checkedLayout_of_ok hl).page_pos (hlaid _ hi)
    (hlaid' _ hi)

/-! #### Page by page, in any order (R160, R161) -/

theorem CommandKeeps.trans {s t u : State} (h : CommandKeeps s t) (h' : CommandKeeps t u) :
    CommandKeeps s u :=
  ⟨h'.params.trans h.params, h'.rom.trans h.rom, h'.ibuf.trans h.ibuf, h'.cfg.trans h.cfg,
    h'.pageSize.trans h.pageSize, h'.blockSize.trans h.blockSize, h'.resetLine.trans h.resetLine,
    h'.delay.trans h.delay, h'.hostTodo.trans h.hostTodo, h'.hostGot.trans h.hostGot⟩

section Order

variable {s u : State} {l : Layout}

/-- The pages of a list, assembled one after the other from a state with the configuration and the
data of `s`: their parts of OBUF are those of `u`, where the whole block is laid out, and the other
bytes stay. -/
theorem runCommands_map_asmPage (hl : checkCfg s = .ok l) (hw : allWritten s.ibuf l.block)
    (hu : ∀ i, i < l.pages → pageLaidOut s u l i) (order : List Nat)
    (horder : ∀ i ∈ order, i < l.pages ∧ i < 2 ^ 24) {v : State} (hv : CommandKeeps s v)
    (hinv : v.Inv) :
    ∃ t, runCommands (order.map (fun i => .asmPage (BitVec.ofNat 24 i))) v = some t ∧ t.Inv ∧
      ∀ a, t.obuf.byteAt a
        = if a / (l.page + l.oob) ∈ order then u.obuf.byteAt a else v.obuf.byteAt a := by
  induction order generalizing v with
  | nil => exact ⟨v, rfl, hinv, fun a => by simp⟩
  | cons i order ih =>
    obtain ⟨⟨hi, hi24⟩, hrest⟩ := List.forall_mem_cons.1 horder
    have hlv : checkCfg v = .ok l :=
      (checkCfg_congr hv.cfg hv.pageSize hv.blockSize hv.params).trans hl
    have hk : (BitVec.ofNat 24 i).toNat = i := Nat.mod_eq_of_lt hi24
    obtain ⟨w, hexec, -, hlaid, houtside⟩ :=
      (asmPageLaysOutItsPage v l (BitVec.ofNat 24 i) hlv).2 (hk.symm ▸ hi)
    rw [hk] at hlaid houtside
    obtain ⟨t, hrun, htinv, ht⟩ := ih hrest (hv.trans (exec_keeps hexec)) (exec_inv hexec hinv)
    refine ⟨t, (runCommands_cons hexec _).trans hrun, htinv, fun a => ?_⟩
    have hpos := (checkedLayout_of_ok hl).page_pos
    have hbyte : w.obuf.byteAt a
        = if a / (l.page + l.oob) = i then u.obuf.byteAt a else v.obuf.byteAt a := by
      split_ifs with ha
      · subst ha
        exact byteAt_eq_of_pageLaidOut_div (hv.sameBlockData hw) hi hpos (hu _ hi) hlaid
      · refine houtside a ?_
        rcases Nat.lt_or_gt_of_ne ha with hlt | hgt
        · exact .inl ((Nat.div_lt_iff_lt_mul (Nat.add_pos_left hpos _)).1 hlt)
        · exact .inr ((Nat.le_div_iff_mul_le (Nat.add_pos_left hpos _)).1 hgt)
    rw [ht, hbyte]
    by_cases hmem : a / (l.page + l.oob) ∈ order <;> simp [hmem]

end Order

/-- A page index fits the operand of ASM_PAGE: a page has 32 bytes or more (R152), and a block at most
2^24 (R7). -/
theorem CheckedLayout.pages_lt {s : State} {l : Layout} (h : CheckedLayout s l) (hs : s.Inv) :
    l.pages < 2 ^ 24 := by
  have hpage : 1 < l.page := by have := h.page_pos; have := h.page_mult; omega
  calc l.pages < l.block := Nat.div_lt_self h.block_pos hpage
    _ ≤ s.params.maxBlockSize := h.block_le
    _ ≤ 2 ^ 24 := hs.maxBlockSize_le

/-- Settles O31: below OUT the pages are those of the block, above it neither writes, and the canonical
form makes the two OBUFs equal. -/
theorem pagesInAnyOrderGiveTheBlock : Obligations.PagesInAnyOrderGiveTheBlock := by
  intro s l order hs hl hw hperm
  have hmem : ∀ i, i ∈ order ↔ i < l.pages := fun i => hperm.mem_iff.trans List.mem_range
  have hc := checkedLayout_of_ok hl
  obtain ⟨u, hu, -, hlaid, -, habove⟩ := asmBlockLaysOutTheBlock s l hl
  obtain ⟨t, hrun, htinv, ht⟩ := runCommands_map_asmPage hl hw hlaid order
    (fun i hi => have hi := (hmem i).1 hi; ⟨hi, hi.trans (hc.pages_lt hs)⟩)
    (State.AsmFrame.refl s).keeps hs
  refine ⟨t, u, hrun, hu, Memory.ext_of_wf htinv.obuf_wf (exec_inv hu hs).obuf_wf fun a => ?_⟩
  rw [ht]
  split_ifs with ha
  · rfl
  · rw [hmem, Nat.not_lt, Nat.le_div_iff_mul_le (Nat.add_pos_left hc.page_pos _)] at ha
    exact (habove a ha).symm

end Sys2Proof.Machine

/-! ### Command control (43_control.md) -/

namespace Sys2Proof.Machine

open Claims

/-! #### Steps and completion (R182; 70_reset_and_hazards.md R230, R240) -/

/-- The block in reset takes no ENGINE step (R230). -/
theorem step_eq_hostStep_of_resetLine {s : State} (hr : s.resetLine = true) :
    step s = hostStep s := by
  simp [step, nextStep, hr]

theorem engineStep_of_decode {w : Word} {i : Instr} (h : decode w = .ok i) (s : State) :
    engineStep w s = exec i s := by
  rw [engineStep, h]

theorem hostStep_nil {s : State} (h : s.hostTodo = []) : hostStep s = .next s := by
  rw [hostStep, h]

theorem hostStep_cons {s : State} {m : HostMove} {rest : List HostMove}
    (h : s.hostTodo = m :: rest) : hostStep s = hostMove m (s.setTodo rest) := by
  rw [hostStep, h]

/-- Settles O6: the pending word, the countdown and the reset input choose the agent. -/
theorem stepRunsTheDecodedCommand : Obligations.StepRunsTheDecodedCommand :=
  ⟨fun s _ _ hr hp hd hdec => (step_eq_engineStep hr hp hd).trans (engineStep_of_decode hdec s),
    fun _ _ _ hr hp hd => step_eq_hostStep_setDelay hr hp hd,
    fun _ hp => step_eq_hostStep hp,
    fun _ hr => step_eq_hostStep_of_resetLine hr,
    fun _ _ _ ht => hostStep_cons ht,
    fun _ ht => hostStep_nil ht⟩

/-- The end of a command, with an error or without one: idle, and ERR tells whether ERRCODE is set
(R36). -/
theorem State.complete_status (s : State) (o : Except ErrCode State) :
    (s.complete o).pending = none ∧ (s.complete o).busy = false ∧
      ((s.complete o).err = true ↔ (s.complete o).errcode ≠ 0) := by
  cases o with
  | ok t => exact ⟨rfl, rfl, by simp⟩
  | error c => exact ⟨rfl, rfl, fun _ => c.code_ne_zero, fun _ => rfl⟩

/-- Settles O7: a command is its outcome, completed. -/
theorem everyCommandCompletes : Obligations.EveryCommandCompletes :=
  fun i s => ⟨_, exec_eq i s, s.complete_status (outcome i s)⟩

/-! #### Issue (R181) -/

section Issue

variable {s : State}

theorem hostMove_wr_cmd_of_idle (hr : s.resetLine = false) (hb : s.busy = false) (w : Word) :
    hostMove (wr .cmd w) s = .next (s.latch w) := by
  rw [hostMove_wr hr, hb]
  rfl

theorem hostMove_wr_cmd_of_busy (hr : s.resetLine = false) (hb : s.busy = true) (w : Word) :
    hostMove (wr .cmd w) s = .refused .hostWriteWhileBusy := by
  rw [hostMove_wr hr, hb]
  rfl

end Issue

/-- Settles O8: the write of CMD is the latch of the word, and BUSY is what refuses it. -/
theorem cmdWriteIssues : Obligations.CmdWriteIssues := fun _ w hr =>
  ⟨fun hb => ⟨_, hostMove_wr_cmd_of_idle hr hb w, rfl, rfl, rfl⟩,
    fun hb => ⟨_, hostMove_wr_cmd_of_busy hr hb w⟩⟩

/-! #### NOP (R180) -/

/-- A word of a command without operands is the command's one word, or illegal (R81, R85). -/
theorem isIllegal_of_ne_formatN {w : Word} {op : BitVec 8} (hop : opcode w = op)
    (hmap : op = 0x00 ∨ op = 0x12 ∨ op = 0x21) (hne : w ≠ formatN op) : isIllegal w :=
  isIllegal_of_formatN (hop ▸ hmap) fun h0 => hne (formatN_eq_iff.2 ⟨hop, h0⟩).symm

/-- Settles O9: NOP writes nothing before its completion, and its one word is 0. -/
theorem nopOnlyCompletes : Obligations.NopOnlyCompletes := by
  have hword : formatN 0x00 = 0 := by decide
  refine ⟨fun _ => exec_eq .nop _, fun w hop => ⟨?_, fun hne => ?_⟩⟩
  · rintro rfl
    exact decode_eq_ok_iff.2 hword
  · exact isIllegal_of_ne_formatN hop (.inl rfl) (hword.symm ▸ hne)

end Sys2Proof.Machine

/-! ### Exceptions (60_exceptions.md) -/

namespace Sys2Proof.Machine

open Claims

/-! #### Which errors a command raises (R200, R201) -/

/-- The errors each command can end with (R200). -/
inductive Raises (s : State) : Instr → ErrCode → Prop
  | badStrength (str : BitVec 4) : Raises s (.pgClr str) .cfgBadStrength
  | overrun (d : Byte) : Raises s (.pgByte d) .pgOverrun
  | incomplete : Raises s .pgPar .pgIncomplete
  | chunkRange (k : BitVec 24) : Raises s (.pgChunk k) .range
  | pageConfig (k : BitVec 24) {c : ErrCode} (h : checkCfg s = .error c) : Raises s (.asmPage k) c
  | pageRange (k : BitVec 24) : Raises s (.asmPage k) .range
  | blockConfig {c : ErrCode} (h : checkCfg s = .error c) : Raises s .asmBlock c

theorem raises_of_outcome_error {i : Instr} {s : State} {c : ErrCode} (h : outcome i s = .error c) :
    Raises s i c := by
  cases i with
  | nop | gfAdd | gfMul | gfLog | gfAlog => cases h
  | pgClr | pgByte | pgPar | pgChunk =>
    simp only [outcome] at h
    split at h <;> cases h
    constructor
  | asmPage k =>
    simp only [outcome] at h
    split at h
    · next hc => cases h; exact .pageConfig k hc
    · split at h <;> cases h
      exact .pageRange k
  | asmBlock =>
    simp only [outcome] at h
    split at h
    · next hc => cases h; exact .blockConfig hc
    · cases h

/-- Settles O36: the other outcome, a completion without an error, leaves ERR 0. -/
theorem errorsWriteOnlyStatus : Obligations.ErrorsWriteOnlyStatus := by
  intro i s t h herr
  obtain ⟨c, -, rfl⟩ | ⟨u, -, -, rfl⟩ := exec_cases h
  · rfl
  · simp at herr

/-- Settles O37: a raised error by the cases of `Raises`, and 0 without one. -/
theorem errorCodesByCommand : Obligations.ErrorCodesByCommand := by
  intro i s t h
  obtain ⟨c, hc, rfl⟩ | ⟨u, -, -, rfl⟩ := exec_cases h
  · cases raises_of_outcome_error hc with
    | badStrength | overrun | incomplete | chunkRange => exact .inr rfl
    | pageConfig k hcfg =>
      obtain ⟨hge, hle⟩ := code_of_checkCfg_error hcfg
      exact .inr ⟨hge, hle.trans (by decide)⟩
    | pageRange => exact .inr (by simp [ErrCode.code])
    | blockConfig hcfg => exact .inr (code_of_checkCfg_error hcfg)
  · cases i with
    | nop | gfAdd | gfMul | gfLog | gfAlog => exact ⟨rfl, rfl⟩
    | pgClr | pgByte | pgPar | pgChunk | asmPage | asmBlock => exact .inl rfl

/-! #### What clears an error report (R204)

A HOST move writes CMD, by offset or by platform address, or asserts reset, or keeps the report. -/

/-- `t` reports the error that `s` reports, or none as `s` does. -/
def SameReport (s t : State) : Prop := t.err = s.err ∧ t.errcode = s.errcode

theorem writesCmd_iff {p : Params} {m : HostMove} :
    writesCmd p m ↔ ∃ v, m = wr .cmd v ∨
      ∃ addr, m = .writeAt addr 32 v ∧ locate p addr = some (.reg, 0x0C) := by
  constructor
  · intro h
    unfold writesCmd at h
    split at h
    · exact ⟨_, .inl rfl⟩
    · exact ⟨_, .inr ⟨_, rfl, h⟩⟩
    · exact h.elim
  · rintro ⟨v, rfl | ⟨addr, rfl, hloc⟩⟩
    · trivial
    · exact hloc

section HostMove

variable {s t : State} {m : HostMove}

/-- A move that reaches CMD is a write of CMD by its offset. -/
theorem hostMove_eq_wr_cmd (h : writesCmd s.params m) :
    ∃ v, hostMove m s = hostMove (wr .cmd v) s := by
  obtain ⟨v, rfl | ⟨addr, rfl, hloc⟩⟩ := writesCmd_iff.1 h
  · exact ⟨v, rfl⟩
  · exact ⟨v, by simp only [hostMove, hloc, wr, regOffset]⟩

theorem eq_latch_of_writesCmd (hm : writesCmd s.params m) (h : hostMove m s = .next t) :
    ∃ v, t = s.latch v := by
  obtain ⟨v, hv⟩ := hostMove_eq_wr_cmd hm
  exact ⟨v, (hostAccess_eq_next_iff.1 (hv.symm.trans h)).2.symm⟩

/-- A read changes nothing in the block, and a write of anything but CMD no more than
`writesOnly` says. -/
theorem sameReport_of_access {a : Access} (h : hostMove (.access a) s = .next t)
    (hcmd : ¬ writesCmd s.params (.access a)) : SameReport s t := by
  obtain ⟨hread, hwrite, -⟩ := onlyCmdWritesHaveSideEffects s t a h hcmd
  cases a with
  | read sp off w => rw [hread sp off w rfl]; exact ⟨rfl, rfl⟩
  | write sp off w v =>
    obtain ⟨hsame, -⟩ := hwrite sp off w v rfl
    rw [hsame]
    exact ⟨rfl, rfl⟩

theorem sameReport_of_hostMove (h : hostMove m s = .next t) (hcmd : ¬ writesCmd s.params m)
    (hreset : m ≠ .assertReset) : SameReport s t := by
  cases m with
  | access a => exact sameReport_of_access h hcmd
  | readAt addr w =>
    simp only [hostMove] at h
    split at h
    · exact sameReport_of_access h id
    · cases h
  | writeAt addr w v =>
    simp only [hostMove] at h
    split at h
    · next hloc =>
      refine sameReport_of_access h fun haccess => hcmd ?_
      obtain ⟨_, heq | ⟨_, heq, -⟩⟩ := writesCmd_iff.1 haccess <;> cases heq
      exact hloc
    · cases h
  | wait =>
    simp only [hostMove, hostWait] at h
    split at h <;> cases h
    cases s.busy <;> exact ⟨rfl, rfl⟩
  | assertReset => exact absurd rfl hreset
  | releaseReset => cases h; exact ⟨rfl, rfl⟩

end HostMove

/-- While an error is reported nothing is pending, so the step is the HOST's (R181). -/
theorem State.Inv.step_eq_hostStep_of_err {s : State} (hs : s.Inv) (herr : s.err = true) :
    step s = hostStep s := by
  have hbusy : s.busy = false := by
    by_contra hb
    simp [hs.busy_noerr (by simpa using hb)] at herr
  exact step_eq_hostStep (by simpa [hs.busy_iff] using hbusy)

/-- Settles O38: a write of CMD is its latch, and a step from a reported error is a move of the
HOST. -/
theorem errorStaysUntilNextCommandOrReset : Obligations.ErrorStaysUntilNextCommandOrReset := by
  refine ⟨fun s m hr hb hm => ?_, fun s => ⟨_, rfl, rfl, rfl, rfl⟩, fun s t hs h herr => ?_⟩
  · obtain ⟨v, hv⟩ := hostMove_eq_wr_cmd hm
    exact ⟨_, hv.trans (hostMove_wr_cmd_of_idle hr hb v), rfl, rfl, rfl⟩
  · rw [hs.step_eq_hostStep_of_err herr] at h
    obtain rfl | ⟨m, rest, htodo, hmove⟩ := hostStep_did h
    · exact .inl ⟨herr, rfl⟩
    · by_cases hcmd : writesCmd s.params m
      · obtain ⟨v, rfl⟩ := eq_latch_of_writesCmd (s := s.setTodo rest) hcmd hmove
        exact .inr ⟨m, rest, htodo, rfl, rfl, .inr ⟨hcmd, rfl⟩⟩
      · by_cases hreset : m = .assertReset
        · subst hreset
          cases hmove
          exact .inr ⟨_, rest, htodo, rfl, rfl, .inl ⟨rfl, rfl⟩⟩
        · obtain ⟨hkept, hcode⟩ := sameReport_of_hostMove (s := s.setTodo rest) hmove hcmd hreset
          exact .inl ⟨hkept.trans herr, hcode⟩

end Sys2Proof.Machine

/-! ### Reset and hazards (70_reset_and_hazards.md) -/

namespace Sys2Proof.Machine

open Claims

/-! #### Reads while BUSY (R234; 20_memory.md R64, R65) -/

section Busy

variable {s : State} (hs : s.Inv) (hb : s.busy = true)
include hs hb

/-- Reset drops a pending command (R230), so a busy block is not in reset. -/
theorem State.Inv.resetLine_of_busy : s.resetLine = false := by
  by_contra hr
  have hpending : s.pending = none := hs.reset_idle (by simpa using hr)
  simp [hs.busy_iff, hpending] at hb

/-- A busy block shows no error (R181), so its STATUS is the BUSY bit alone (R36). -/
theorem State.Inv.status_of_busy : s.status = 1 := by
  have herr : s.err = false := hs.busy_noerr hb
  have hcode : s.errcode = 0 := by
    by_contra hne
    simp [hs.err_iff.2 hne] at herr
  rw [State.status, hb, herr, hcode]
  rfl

end Busy

/-- Settles O41: a busy block of the invariant is not in reset, so each read has a step, with the
value of `State.readReg` or `State.hostRead`. -/
theorem readsWhileBusy : Obligations.ReadsWhileBusy := by
  intro s hs hb
  have hr := hs.resetLine_of_busy hb
  have hibuf : Space.ibuf ≠ .reg := by decide
  have hobuf : Space.obuf ≠ .reg := by decide
  refine ⟨?_, hostMove_rd hr .cmd, hostMove_rd hr .cfg, hostMove_rd hr .pageSize,
    hostMove_rd hr .blockSize, hostMove_rd hr .mode, hostMove_rd hr .outlen,
    fun a b hin hbyte => ?_, fun a b0 b1 b2 b3 ha hin hbytes => ?_,
    ⟨_, hostMove_rd hr .result⟩, ⟨_, hostMove_rd hr .accv⟩, ⟨_, hostMove_rd hr .pgstate⟩,
    fun a hin => ⟨_, hostMove_readBuffer hr hobuf (.inl rfl) hin⟩,
    fun a ha hin => ⟨_, hostMove_readBuffer hr hobuf (.inr ⟨rfl, ha⟩) hin⟩⟩
  · rw [← hs.status_of_busy hb]
    exact hostMove_rd hr .status
  · rw [← State.readBuffer_8 (s := s) hbyte]
    exact hostMove_readBuffer hr hibuf (.inl rfl) hin
  · rw [← State.readBuffer_32 (s := s) hbytes]
    exact hostMove_readBuffer hr hibuf (.inr ⟨rfl, ha⟩) hin

/-! #### WAIT (R241; 30_encoding.md R89) -/

/-- Settles O52: the ENGINE's step leaves the block idle, and the last poll reads its STATUS. -/
theorem waitTerminates : Obligations.WaitTerminates := by
  intro s w rest hr hb hp ht
  obtain ⟨draws, got, u, hengine, hrun⟩ := run_wait hr hb hp ht
  obtain ⟨_, hends, -, hpending, hbusy⟩ := engineStep_ends w (s.countedDown draws got)
  cases hengine.symm.trans hends
  refine ⟨_, hrun, rfl, hbusy, hpending, ?_⟩
  have hstatus : u.status = 0#24 ++ u.errcode ++ 0#2 ++ BitVec.ofBool u.err ++ 0#1 := by
    rw [State.status, hbusy]
    rfl
  exact congrArg some hstatus

/-! #### Writes while BUSY (R233) -/

/-- Settles O42: BUSY refuses the hazardous writes (O43), and no read-only register is one of them. -/
theorem writeHazardsWhileBusy : Obligations.WriteHazardsWhileBusy := by
  intro s v hb hr
  have hwr : ∀ r, regWriteHazard r = false → hostMove (wr r v) s = .next (s.writeReg r v) :=
    fun r hsafe => by simp [hostMove_wr hr, hsafe]
  exact ⟨fun a ha => (refusedAccesses s a).1.2 (.inr (.inr ⟨hb, ha⟩)),
    hwr .status rfl, hwr .result rfl, hwr .accv rfl, hwr .pgstate rfl, hwr .mode rfl,
    hwr .outlen rfl⟩

/-! #### The reset input (R230, R231) -/

/-- An access while reset is asserted is refused, whatever it is (R230). -/
theorem hostMove_access_refused_of_resetLine {s : State} (hr : s.resetLine = true) (a : Access) :
    ∃ r, hostMove (.access a) s = .refused r :=
  (refusedAccesses s a).1.2 (.inl hr)

/-- Settles O48: asserting reset takes the fields of `State.reset` but for the parameters, the ROMs
and the HOST's side. -/
theorem resetInput : Obligations.ResetInput := fun s =>
  ⟨s.assertReset, rfl, rfl, rfl, rfl, rfl, rfl, rfl, rfl, rfl, rfl, rfl, rfl, fun _ => ⟨rfl, rfl⟩,
    rfl, rfl, rfl, hostMove_access_refused_of_resetLine rfl, s.assertReset.releaseReset, rfl, rfl⟩

end Sys2Proof.Machine
